-- ==== Sys2Proof/Word.lean ====
section
/-! DEFINITION. The word and byte types of SUB017-CORE (00_scope.md R13: REG_W = 32; R14: a byte is 8 bits). -/

namespace Sys2Proof

/-- A register of the window, an operand, a command word (00_scope.md R13, REG_W = 32). -/
abbrev Word := BitVec 32

/-- A byte (00_scope.md R14). -/
abbrev Byte := BitVec 8

/-- A 16-bit value: a ZIP field register, a decode-table entry (10_state.md R65, R71). -/
abbrev Half := BitVec 16

end Sys2Proof
end

