-- ==== Sys2Proof/Config.lean ====
section
/-! DEFINITION. The implementation parameters of 00_scope.md R13, each under the spec's name, and the model's one free value. -/

namespace Sys2Proof.Config

/-- ID register value (10_state.md R42). -/
@[simp] abbrev id : Word := 0x5A430100#32

/-- WINDOW: LZ77 window and decoder dictionary size in bytes. -/
@[simp] abbrev window : Nat := 32768
/-- MIN_MATCH: shortest match length. -/
@[simp] abbrev minMatch : Nat := 3
/-- MAX_MATCH: longest match length. -/
@[simp] abbrev maxMatch : Nat := 258
/-- LEN3_FAR: a length-3 match whose distance exceeds this is rejected. -/
@[simp] abbrev len3Far : Nat := 8192
/-- MAXLEN_LD: code-length limit of literal/length and distance tables. -/
@[simp] abbrev maxLenLd : Nat := 15
/-- MAXLEN_CL: code-length limit of the code-length table. -/
@[simp] abbrev maxLenCl : Nat := 7
/-- ADLER_MOD. -/
@[simp] abbrev adlerMod : Nat := 65521
/-- CRC_POLY, reflected. -/
@[simp] abbrev crcPoly : Word := 0xEDB88320#32
/-- FAST_BITS: fast-lookup width of a decode table. -/
@[simp] abbrev fastBits : Nat := 10
/-- Entries of a decode table's fast part, 2^FAST_BITS (42_huffman.md R267). -/
@[simp] abbrev fastEntries : Nat := 1024
/-- TREE_SLOTS: child slots of a decode table's tree part. -/
@[simp] abbrev treeSlots : Nat := 576
/-- MAX_SYMS: most symbols in any Huffman table. -/
@[simp] abbrev maxSyms : Nat := 288
/-- LAZY_NICE: a match this long is taken at once under lazy parsing. -/
@[simp] abbrev lazyNice : Nat := 128
/-- LOOKAHEAD: bytes held before a parse step is taken without a flush. -/
@[simp] abbrev lookahead : Nat := 258
/-- BLOCK_RAW_MAX: raw bytes after which a block is closed. -/
@[simp] abbrev blockRawMax : Nat := 16384
/-- STATIC_MAX: blocks of at most this many raw bytes use static codes. -/
@[simp] abbrev staticMax : Nat := 47
/-- ENC_FIFO_BYTES: capacity of the encoder's pending-output FIFO. -/
@[simp] abbrev encFifoBytes : Nat := 17408
/-- EOCD_SEARCH: bytes from the archive's end searched for the EOCD signature, 22 + 65535. -/
@[simp] abbrev eocdSearch : Nat := 65557
/-- ARCH_MAX: the largest archive offset a 32-bit field holds (47_zip_records.md R515). -/
@[simp] abbrev archMax : Nat := 0xFFFFFFFF

/-- FREE VALUE (log 4): what DDICT[i] holds before the decoder has written it since the last reset
(10_state.md R95: reset value unspecified). No body: nothing can be proved of it. -/
opaque ddictUnwritten : Nat → Byte

end Sys2Proof.Config
end

