-- ==== Sys2Proof/Syntax.lean ====
section
/-! DEFINITION. The 28 commands of SUB017-CORE, one constructor per row of spec/opcode_table.json (30_encoding.md R183, R184). -/

namespace Sys2Proof

/-- A command with its MOD and IMM fields (30_encoding.md R184). A number field is the number a rule uses (R181:
zero-extended); its bound is checked by `WellFormed`. A slot is one of the four of 10_state.md R71. -/
inductive Instr where
  | nop
  | reset
  | crcInit
  | crcUpdate
  | crcByte (b : Byte)
  | adlerInit
  | adlerUpdate
  | adlerByte (b : Byte)
  | hufLengths (maxlen : Nat)
  | hufCodes (reverse : Bool)
  | hufDtable (slot : Fin 4)
  | hufDecode (slot : Fin 4)
  | hufPeek (slot : Fin 4) (tree : Bool) (index : Nat)
  | lzFind (reject filter : Bool) (probes : Nat)
  | lzHash (fast : Bool)
  | encInit (level : Nat) (zlib forceStatic filter crcTap probesOvr : Bool)
  | encRun (flush : Nat)
  | decInit (zlib : Bool) (omode : Nat) (crcTap : Bool)
  | decRun
  | zipNameCheck
  | zipLhWrite (align : Nat)
  | zipCdWrite
  | zipEocdWrite
  | zipEocdFind
  | zipCdParse
  | zipLhCheck
  | zipNameCmp (caseSensitive : Bool)
  | zipVerify
  deriving DecidableEq, Repr

end Sys2Proof
end

