-- ==== Sys2Proof/WellFormed.lean ====
section
/-! DEFINITION. Which commands the command word can hold: each number field within its width (30_encoding.md R184). A value
that is encodable but that its command rejects with PARAM (MAXLEN = 0, LEVEL above 10, FLUSH above 4, OMODE = 3) is well formed. -/

namespace Sys2Proof

/-- Every number field fits the bits 30_encoding.md R184 gives it. -/
def Instr.wellFormed : Instr → Bool
  | .hufLengths maxlen => maxlen < 16
  | .hufPeek _ _ index => index < 65536
  | .lzFind _ _ probes => probes < 65536
  | .encInit level _ _ _ _ _ => level < 256
  | .encRun flush => flush < 8
  | .decInit _ omode _ => omode < 4
  | .zipLhWrite align => align < 65536
  | .nop | .reset | .crcInit | .crcUpdate | .crcByte _ | .adlerInit | .adlerUpdate | .adlerByte _ | .hufCodes _
  | .hufDtable _ | .hufDecode _ | .lzHash _ | .decRun | .zipNameCheck | .zipCdWrite | .zipEocdWrite | .zipEocdFind
  | .zipCdParse | .zipLhCheck | .zipNameCmp _ | .zipVerify => true

/-- The command can be written as a command word. -/
abbrev WellFormed (i : Instr) : Prop := i.wellFormed = true

end Sys2Proof
end

