-- ==== Sys2Proof/Decode.lean ====
section
/-! DEFINITION. Decoding a command word, total on every word and rejecting by name (30_encoding.md R180 to R187; 40_control.md
R214), and the encoder written from the same table. -/

namespace Sys2Proof

/-- The two ways a command word is illegal (30_encoding.md R186, R187). -/
inductive DecodeError where
  /-- OPC is a reserved opcode (R186). -/
  | unknownOpc
  /-- A bit that the command's mask requires to be 0 is 1 (R187). -/
  | reservedBits
  deriving DecidableEq, Repr

/-- OPC, bits [7:0] (30_encoding.md R180). -/
def opcOf (w : Word) : Nat := w.toNat % 256

/-- MOD, bits [15:8] (30_encoding.md R180). -/
def modOf (w : Word) : Nat := w.toNat / 256 % 256

/-- IMM, bits [31:16] (30_encoding.md R180). -/
def immOf (w : Word) : Nat := w.toNat / 65536

/-- The slot number MOD[1:0] (30_encoding.md R184). -/
def slotOf (w : Word) : Fin 4 := Fin.ofNat 4 (modOf w)

/-- A command word is legal for a row if the row's mask and match agree with it (30_encoding.md R184). -/
def legal (w mask pattern : Word) (i : Instr) : Except DecodeError Instr :=
  if w &&& mask = pattern then .ok i else .error .reservedBits

/-- Decode a command word: OPC selects the row, then the row's mask and match are checked (30_encoding.md R184;
40_control.md R214). Bits 8 to 15 are MOD[0] to MOD[7], bits 16 to 31 are IMM[0] to IMM[15]. -/
def decode (w : Word) : Except DecodeError Instr :=
  match opcOf w with
  | 0x00 => legal w 0xFFFFFFFF#32 0x00000000#32 .nop
  | 0x01 => legal w 0xFFFFFFFF#32 0x00000001#32 .reset
  | 0x10 => legal w 0xFFFFFFFF#32 0x00000010#32 .crcInit
  | 0x11 => legal w 0xFFFFFFFF#32 0x00000011#32 .crcUpdate
  | 0x12 => legal w 0xFFFF00FF#32 0x00000012#32 (.crcByte (BitVec.ofNat 8 (modOf w)))
  | 0x14 => legal w 0xFFFFFFFF#32 0x00000014#32 .adlerInit
  | 0x15 => legal w 0xFFFFFFFF#32 0x00000015#32 .adlerUpdate
  | 0x16 => legal w 0xFFFF00FF#32 0x00000016#32 (.adlerByte (BitVec.ofNat 8 (modOf w)))
  | 0x20 => legal w 0xFFF0FFFF#32 0x00000020#32 (.hufLengths (immOf w % 16))
  | 0x21 => legal w 0xFFFFFEFF#32 0x00000021#32 (.hufCodes (w.getLsbD 8))
  | 0x22 => legal w 0xFFFFFCFF#32 0x00000022#32 (.hufDtable (slotOf w))
  | 0x23 => legal w 0xFFFFFCFF#32 0x00000023#32 (.hufDecode (slotOf w))
  | 0x24 => legal w 0x0000F8FF#32 0x00000024#32 (.hufPeek (slotOf w) (w.getLsbD 10) (immOf w))
  | 0x30 => legal w 0x0000FCFF#32 0x00000030#32 (.lzFind (w.getLsbD 8) (w.getLsbD 9) (immOf w))
  | 0x31 => legal w 0xFFFFFEFF#32 0x00000031#32 (.lzHash (w.getLsbD 8))
  | 0x40 => legal w 0xFFE000FF#32 0x00000040#32
      (.encInit (modOf w) (w.getLsbD 16) (w.getLsbD 17) (w.getLsbD 18) (w.getLsbD 19) (w.getLsbD 20))
  | 0x41 => legal w 0xFFFFF8FF#32 0x00000041#32 (.encRun (modOf w % 8))
  | 0x50 => legal w 0xFFFFF0FF#32 0x00000050#32 (.decInit (w.getLsbD 8) (modOf w / 2 % 4) (w.getLsbD 11))
  | 0x51 => legal w 0xFFFFFFFF#32 0x00000051#32 .decRun
  | 0x60 => legal w 0xFFFFFFFF#32 0x00000060#32 .zipNameCheck
  | 0x61 => legal w 0x0000FFFF#32 0x00000061#32 (.zipLhWrite (immOf w))
  | 0x62 => legal w 0xFFFFFFFF#32 0x00000062#32 .zipCdWrite
  | 0x63 => legal w 0xFFFFFFFF#32 0x00000063#32 .zipEocdWrite
  | 0x64 => legal w 0xFFFFFFFF#32 0x00000064#32 .zipEocdFind
  | 0x65 => legal w 0xFFFFFFFF#32 0x00000065#32 .zipCdParse
  | 0x66 => legal w 0xFFFFFFFF#32 0x00000066#32 .zipLhCheck
  | 0x67 => legal w 0xFFFFFEFF#32 0x00000067#32 (.zipNameCmp (w.getLsbD 8))
  | 0x68 => legal w 0xFFFFFFFF#32 0x00000068#32 .zipVerify
  | _ => .error .unknownOpc

/-- A command word from its three fields (30_encoding.md R180). -/
def packWord (opc mod imm : Nat) : Word := BitVec.ofNat 16 imm ++ BitVec.ofNat 8 mod ++ BitVec.ofNat 8 opc

/-- The bits of a list of one-bit options as a number, the first at bit 0. -/
def bitsOf : List Bool → Nat
  | [] => 0
  | b :: bs => b.toNat + 2 * bitsOf bs

/-- The command word of a command (30_encoding.md R183, R184). -/
def encode : Instr → Word
  | .nop => packWord 0x00 0 0
  | .reset => packWord 0x01 0 0
  | .crcInit => packWord 0x10 0 0
  | .crcUpdate => packWord 0x11 0 0
  | .crcByte b => packWord 0x12 b.toNat 0
  | .adlerInit => packWord 0x14 0 0
  | .adlerUpdate => packWord 0x15 0 0
  | .adlerByte b => packWord 0x16 b.toNat 0
  | .hufLengths maxlen => packWord 0x20 0 maxlen
  | .hufCodes reverse => packWord 0x21 (bitsOf [reverse]) 0
  | .hufDtable slot => packWord 0x22 slot.val 0
  | .hufDecode slot => packWord 0x23 slot.val 0
  | .hufPeek slot tree index => packWord 0x24 (slot.val + 4 * bitsOf [tree]) index
  | .lzFind reject filter probes => packWord 0x30 (bitsOf [reject, filter]) probes
  | .lzHash fast => packWord 0x31 (bitsOf [fast]) 0
  | .encInit level zlib forceStatic filter crcTap probesOvr =>
      packWord 0x40 level (bitsOf [zlib, forceStatic, filter, crcTap, probesOvr])
  | .encRun flush => packWord 0x41 flush 0
  | .decInit zlib omode crcTap => packWord 0x50 (bitsOf [zlib] + 2 * omode + 8 * bitsOf [crcTap]) 0
  | .decRun => packWord 0x51 0 0
  | .zipNameCheck => packWord 0x60 0 0
  | .zipLhWrite align => packWord 0x61 0 align
  | .zipCdWrite => packWord 0x62 0 0
  | .zipEocdWrite => packWord 0x63 0 0
  | .zipEocdFind => packWord 0x64 0 0
  | .zipCdParse => packWord 0x65 0 0
  | .zipLhCheck => packWord 0x66 0 0
  | .zipNameCmp caseSensitive => packWord 0x67 (bitsOf [caseSensitive]) 0
  | .zipVerify => packWord 0x68 0 0

/-- A word of `nbits` bits as the command word it names: a command is one 32-bit word, and its bits above `nbits` are 0. -/
def tableWord (nbits w : Nat) : Word := BitVec.ofNat 32 (w % 2 ^ nbits)

/-- What the decoder reads from a word numbered as spec/opcode_table.json numbers it (bit 0 the least significant). -/
def decodeTableWord (nbits w : Nat) : Option Instr :=
  match decode (tableWord nbits w) with
  | .ok i => some i
  | .error _ => none

end Sys2Proof
end

