-- ==== Sys2Proof/Machine/State.lean ====
section
/-! DEFINITION. The state of SUB017-CORE as plain data (10_state.md): the register window, the four decode-table slots, the
encoder, the decoder, host memory, and the model's own data for the host and the platform. -/

namespace Sys2Proof.Machine

/-- Why a step stops the model. The block itself has no stop: every command ends with a completion (60_exceptions.md R580). -/
inductive Fault where
  /-- Raised by DEC_RUN when the fuel of the decoder's loop ends before the loop does. Laws/Decoder.lean proves that no step
  raises it. Safe: the model would stop where the hardware goes on (log 11). -/
  | decoderStalled
  deriving DecidableEq, Repr

/-- Why the model has no meaning for an instruction. -/
inductive Refusal where
  /-- Raised only by an arm of `exec` whose command has no meaning in the model. Safe. No arm raises it now. -/
  | notModelled (mnemonic : String)
  deriving DecidableEq, Repr

/-- A read or a write of one byte of host memory (20_memory.md R142, R145). -/
inductive Access where
  | read
  | write
  deriving DecidableEq, Repr

/-- Host memory, and DDICT: the listed bytes, by rising address (20_memory.md R140; 10_state.md R95). -/
abbrev Memory := List Host.Cell

/-- The fields of STATUS (10_state.md R44). ERR is no field: it equals CODE >= 0x10 at all times. -/
structure Status where
  code : Byte
  busy : Bool
  cmpl : Bool
  ovr : Bool
  lastOpc : Byte
  deriving DecidableEq, Repr

/-- ARG0 to ARG7 (10_state.md R50). -/
structure Args where
  a0 : Word
  a1 : Word
  a2 : Word
  a3 : Word
  a4 : Word
  a5 : Word
  a6 : Word
  a7 : Word
  deriving DecidableEq, Repr

/-- The ZF_* registers: one ZIP entry's fields (10_state.md R65). -/
structure ZipEntry where
  verMade : Half
  verNeed : Half
  flags : Half
  method : Half
  time : Half
  date : Half
  crc : Word
  csize : Word
  usize : Word
  nameLen : Half
  extraLen : Half
  commentLen : Half
  diskStart : Half
  intAttr : Half
  extAttr : Word
  lhOfs : Word
  deriving DecidableEq, Repr

/-- The ZE_* registers: one end-of-central-directory record's fields (10_state.md R67). -/
structure ZipEnd where
  disk : Half
  cdDisk : Half
  nentDisk : Half
  nent : Word
  cdSize : Word
  cdOfs : Word
  commentLen : Half
  ofs : Word
  deriving DecidableEq, Repr

/-- One decode-table slot (10_state.md R71): code lengths, counts, fast-lookup entries and tree child slots. -/
structure Slot where
  n : Nat
  len : List Nat
  used : Nat
  fast : List Half
  tree : List Half
  nodes : Nat
  deriving DecidableEq, Repr

/-- The four decode-table slots (10_state.md R71, R72). -/
structure Slots where
  s0 : Slot
  s1 : Slot
  s2 : Slot
  s3 : Slot
  deriving DecidableEq, Repr

/-- ENC_STATE.STATE (10_state.md R54; 45_encoder.md R374). -/
inductive EncPhase where
  | idle
  | ready
  | drain
  | finishing
  | finished
  | failed
  deriving DecidableEq, Repr

/-- ENC_STATE.FLAGS, the options of ENC_INIT (10_state.md R54). -/
structure EncFlags where
  zlib : Bool
  forceStatic : Bool
  filter : Bool
  crcTap : Bool
  probesOvr : Bool
  deriving DecidableEq, Repr

/-- A match (43_lz77.md R300). -/
structure Match where
  len : Nat
  dist : Nat
  deriving DecidableEq, Repr

/-- An LZ record of the current block (45_encoder.md R403): LIT(b) or MATCH(L, D). -/
inductive Token where
  | lit (b : Byte)
  | copy (len dist : Nat)
  deriving DecidableEq, Repr

/-- The encoder's BitBuffer and output FIFO (10_state.md R84, R85). -/
structure BitSink where
  bitbuf : Word
  nbits : Nat
  fifo : List Byte
  deriving DecidableEq, Repr

/-- The encoder (10_state.md R81, R54 to R57). `phase` is enc.state, `input` is enc.S, `pos` is enc.P; `fasttab` lists the
entries of enc.fasttab that are not none, by rising hash. -/
structure Enc where
  phase : EncPhase
  level : BitVec 4
  flags : EncFlags
  probes : BitVec 12
  greedy : Bool
  fast : Bool
  raw : Bool
  input : List Byte
  base : Nat
  pos : Nat
  saved : Option Match
  tokens : List Token
  blockRaw : Nat
  blockStart : Nat
  fasttab : List (Nat × Nat)
  out : BitSink
  adler : Word
  totalIn : Word
  totalOut : Word
  deriving DecidableEq, Repr

/-- DEC_STATE.STATE (10_state.md R58). -/
inductive DecPhase where
  | idle
  | zhdr
  | bhdr
  | storedLen
  | storedCopy
  | dynCounts
  | dynClen
  | dynLens
  | dataSym
  | litOut
  | lenExtra
  | distSym
  | distExtra
  | copy
  | ztrailer
  | done
  | failed
  deriving DecidableEq, Repr

/-- DEC_STATE.OMODE (10_state.md R58; 46_decoder.md R441). -/
inductive OMode where
  | stream
  | oneshot
  | wrap
  deriving DecidableEq, Repr

/-- The decoder (10_state.md R91, R58 to R64). `phase` is dec.state. -/
structure Dec where
  phase : DecPhase
  zlib : Bool
  omode : OMode
  crcTap : Bool
  bitbuf : Word
  nbits : Nat
  bfinal : Bool
  btype : BitVec 2
  remaining : Nat
  hlit : Nat
  hdist : Nat
  hclen : Nat
  ci : Nat
  clen : List Nat
  lens : List Nat
  pend : Option Nat
  lit : Byte
  lsym : Nat
  dsym : Nat
  mlen : Nat
  mdist : Nat
  opos : Nat
  hist : Nat
  wbase : Word
  wsize : Word
  fcode : Byte
  fcause : Byte
  finfo : Word
  adler : Word
  totalIn : Word
  totalOut : Word
  deriving DecidableEq, Repr

/-- A range of host addresses at which the platform completes no read, or no write, of the block (log 2). -/
structure MemHole where
  base : Nat
  size : Nat
  noRead : Bool
  noWrite : Bool
  deriving DecidableEq, Repr

/-- What the platform fixes (92_eei_decisions.md P1, P2): MMIO_BASE, and host_mem_ok as the list of the ranges where it is
false. The model's own field: every statement is for every value of it. -/
structure Platform where
  mmioBase : Nat
  holes : List MemHole
  deriving DecidableEq, Repr

/-- A pending action of the host or the platform, or the block's turn (00_scope.md R24; 20_memory.md R150, R160; 70_reset R610). -/
inductive HostEvent where
  /-- A bus write of `size` bytes at a bus address. -/
  | write (addr size : Nat) (v : Word)
  /-- A bus read of `size` bytes at a bus address. -/
  | read (addr size : Nat)
  /-- The host stores a byte to its own memory. -/
  | store (a : Word) (b : Byte)
  /-- The platform asserts and releases the reset input. -/
  | rst
  /-- The block's turn: a launched command's step falls here. -/
  | block
  deriving DecidableEq, Repr

/-- The whole state. `mem` to `busData` are outside the block: host memory, and the model's own fields (log 2, 3, 5, 8). -/
structure State where
  cmd : Word
  status : Status
  irqEn : Bool
  errCause : Byte
  errInfo : Word
  result0 : Word
  result1 : Word
  args : Args
  crcAcc : Word
  adlerAcc : Word
  zf : ZipEntry
  ze : ZipEnd
  slots : Slots
  enc : Enc
  dec : Dec
  ddict : Memory
  mem : Memory
  plat : Platform
  hostq : List HostEvent
  busData : Word
  deriving DecidableEq, Repr

/-- The outcomes of a step of this machine. -/
abbrev Outcome := Host.Outcome State Fault Refusal

/-- STATUS after reset (10_state.md R44). -/
def Status.reset : Status := { code := 0#8, busy := false, cmpl := false, ovr := false, lastOpc := 0#8 }

/-- ARG0 to ARG7 after reset (10_state.md R41). -/
def Args.reset : Args := { a0 := 0#32, a1 := 0#32, a2 := 0#32, a3 := 0#32, a4 := 0#32, a5 := 0#32, a6 := 0#32, a7 := 0#32 }

/-- The ZF_* registers after reset (10_state.md R65). -/
def ZipEntry.reset : ZipEntry :=
  { verMade := 0#16, verNeed := 0#16, flags := 0#16, method := 0#16, time := 0#16, date := 0#16, crc := 0#32, csize := 0#32
    usize := 0#32, nameLen := 0#16, extraLen := 0#16, commentLen := 0#16, diskStart := 0#16, intAttr := 0#16
    extAttr := 0#32, lhOfs := 0#32 }

/-- The ZE_* registers after reset (10_state.md R67). -/
def ZipEnd.reset : ZipEnd :=
  { disk := 0#16, cdDisk := 0#16, nentDisk := 0#16, nent := 0#32, cdSize := 0#32, cdOfs := 0#32, commentLen := 0#16
    ofs := 0#32 }

/-- An empty slot, its reset value (10_state.md R71). -/
def Slot.empty : Slot :=
  { n := 0, len := List.replicate Config.maxSyms 0, used := 0, fast := List.replicate Config.fastEntries 0#16
    tree := List.replicate Config.treeSlots 0#16, nodes := 0 }

/-- The slots after reset (10_state.md R71). -/
def Slots.reset : Slots := { s0 := Slot.empty, s1 := Slot.empty, s2 := Slot.empty, s3 := Slot.empty }

/-- The encoder's options after reset (10_state.md R54). -/
def EncFlags.reset : EncFlags :=
  { zlib := false, forceStatic := false, filter := false, crcTap := false, probesOvr := false }

/-- The BitBuffer and FIFO after reset (10_state.md R81). -/
def BitSink.reset : BitSink := { bitbuf := 0#32, nbits := 0, fifo := [] }

/-- The encoder after reset (10_state.md R54 to R57, R81). -/
def Enc.reset : Enc :=
  { phase := .idle, level := 0#4, flags := EncFlags.reset, probes := 0#12, greedy := false, fast := false, raw := false
    input := [], base := 0, pos := 0, saved := none, tokens := [], blockRaw := 0, blockStart := 0, fasttab := []
    out := BitSink.reset, adler := 1#32, totalIn := 0#32, totalOut := 0#32 }

/-- The decoder after reset (10_state.md R58 to R64, R91). -/
def Dec.reset : Dec :=
  { phase := .idle, zlib := false, omode := .stream, crcTap := false, bitbuf := 0#32, nbits := 0, bfinal := false
    btype := 0#2, remaining := 0, hlit := 0, hdist := 0, hclen := 0, ci := 0, clen := List.replicate 19 0, lens := []
    pend := none, lit := 0#8, lsym := 0, dsym := 0, mlen := 0, mdist := 0, opos := 0, hist := 0, wbase := 0#32
    wsize := 0x8000#32, fcode := 0#8, fcause := 0#8, finfo := 0#32, adler := 1#32, totalIn := 0#32, totalOut := 0#32 }

/-- The machine right after reset (70_reset_and_hazards.md R610, R611). Host memory, the platform's data, the host's queue and
the bus latch are the model's choices (log 1, 2, 3, 5, 8); DDICT lists nothing, so every byte of it is unspecified (log 4). -/
def State.reset : State :=
  { cmd := 0#32, status := Status.reset, irqEn := false, errCause := 0#8, errInfo := 0#32, result0 := 0#32, result1 := 0#32
    args := Args.reset, crcAcc := 0#32, adlerAcc := 1#32, zf := ZipEntry.reset, ze := ZipEnd.reset, slots := Slots.reset
    enc := Enc.reset, dec := Dec.reset, ddict := [], mem := [], plat := { mmioBase := 0, holes := [] }, hostq := []
    busData := 0#32 }

end Sys2Proof.Machine
end

