-- ==== Sys2Proof/Machine/Flags.lean ====
section
/-! DEFINITION. Completion codes and causes (60_exceptions.md R570, R572), and the words the host reads of STATUS, ENC_STATE,
ENC_PENDING and DEC_STATE (10_state.md R44, R54, R57, R58), with the interrupt line (60_exceptions.md R590). -/

namespace Sys2Proof.Machine

/-- The completion codes (60_exceptions.md R570). -/
inductive Code where
  | ok
  | done
  | needsInput
  | hasMoreOutput
  | illegalCmd
  | param
  | badState
  | unitBusy
  | busError
  | corruptTable
  | corruptData
  | crcMismatch
  | sizeMismatch
  | corruptArchive
  | unsupported
  | notFound
  | badName
  deriving DecidableEq, Repr

/-- The value of STATUS.CODE for each completion code (60_exceptions.md R570). -/
def Code.toByte : Code → Byte
  | .ok => 0x00#8
  | .done => 0x01#8
  | .needsInput => 0x02#8
  | .hasMoreOutput => 0x03#8
  | .illegalCmd => 0x10#8
  | .param => 0x11#8
  | .badState => 0x12#8
  | .unitBusy => 0x13#8
  | .busError => 0x14#8
  | .corruptTable => 0x20#8
  | .corruptData => 0x21#8
  | .crcMismatch => 0x23#8
  | .sizeMismatch => 0x24#8
  | .corruptArchive => 0x30#8
  | .unsupported => 0x31#8
  | .notFound => 0x32#8
  | .badName => 0x33#8

/-- Every completion code, in the order of 60_exceptions.md R570. -/
def Code.all : List Code :=
  [.ok, .done, .needsInput, .hasMoreOutput, .illegalCmd, .param, .badState, .unitBusy, .busError, .corruptTable
  , .corruptData, .crcMismatch, .sizeMismatch, .corruptArchive, .unsupported, .notFound, .badName]

/-- The causes (60_exceptions.md R572). -/
inductive Cause where
  | unknownOpc
  | reservedBits
  | badFlush
  | finishThenInput
  | range
  | overlap
  | badLevel
  | badMaxlen
  | tooManySymbols
  | badWindow
  | badCount
  | badMethod
  | badAlign
  | lenRange
  | nullBuf
  | badMode
  | badIndex
  | noStream
  | streamFailed
  | decActive
  | busRead
  | busWrite
  | oversubscribed
  | incomplete
  | badLength
  | badZhdr
  | badBtype
  | storedLen
  | badCounts
  | badClenTable
  | badRepeat
  | badLitlenTable
  | badDistTable
  | noEob
  | invalidCode
  | badSymbol
  | distTooFar
  | adlerMismatch
  | windowTooSmall
  | crc
  | size
  | badSigCd
  | badSigLh
  | outOfRange
  | truncated
  | lhMismatch
  | storedSize
  | cdRange
  | zeroCsize
  | badEocd
  | multiDisk
  | zip64
  | encrypted
  | patch
  | method
  | noEocd
  | leadingSlash
  | backslash
  | colon
  deriving DecidableEq, Repr

/-- The completion code each cause belongs to (60_exceptions.md R572). -/
def Cause.code : Cause → Code
  | .unknownOpc | .reservedBits => .illegalCmd
  | .badFlush | .finishThenInput | .range | .overlap | .badLevel | .badMaxlen | .tooManySymbols | .badWindow | .badCount
  | .badMethod | .badAlign | .lenRange | .nullBuf | .badMode | .badIndex => .param
  | .noStream | .streamFailed => .badState
  | .decActive => .unitBusy
  | .busRead | .busWrite => .busError
  | .oversubscribed | .incomplete | .badLength => .corruptTable
  | .badZhdr | .badBtype | .storedLen | .badCounts | .badClenTable | .badRepeat | .badLitlenTable | .badDistTable | .noEob
  | .invalidCode | .badSymbol | .distTooFar | .adlerMismatch | .windowTooSmall => .corruptData
  | .crc => .crcMismatch
  | .size => .sizeMismatch
  | .badSigCd | .badSigLh | .outOfRange | .truncated | .lhMismatch | .storedSize | .cdRange | .zeroCsize | .badEocd =>
      .corruptArchive
  | .multiDisk | .zip64 | .encrypted | .patch | .method => .unsupported
  | .noEocd => .notFound
  | .leadingSlash | .backslash | .colon => .badName

/-- The number of each cause within its completion code (60_exceptions.md R572). -/
def Cause.num : Cause → Byte
  | .unknownOpc => 1#8
  | .reservedBits => 2#8
  | .badFlush => 1#8
  | .finishThenInput => 2#8
  | .range => 3#8
  | .overlap => 4#8
  | .badLevel => 5#8
  | .badMaxlen => 6#8
  | .tooManySymbols => 7#8
  | .badWindow => 8#8
  | .badCount => 9#8
  | .badMethod => 10#8
  | .badAlign => 11#8
  | .lenRange => 12#8
  | .nullBuf => 14#8
  | .badMode => 15#8
  | .badIndex => 16#8
  | .noStream => 1#8
  | .streamFailed => 2#8
  | .decActive => 1#8
  | .busRead => 1#8
  | .busWrite => 2#8
  | .oversubscribed => 1#8
  | .incomplete => 2#8
  | .badLength => 3#8
  | .badZhdr => 1#8
  | .badBtype => 2#8
  | .storedLen => 3#8
  | .badCounts => 4#8
  | .badClenTable => 5#8
  | .badRepeat => 6#8
  | .badLitlenTable => 7#8
  | .badDistTable => 8#8
  | .noEob => 9#8
  | .invalidCode => 10#8
  | .badSymbol => 11#8
  | .distTooFar => 12#8
  | .adlerMismatch => 13#8
  | .windowTooSmall => 14#8
  | .crc => 1#8
  | .size => 1#8
  | .badSigCd => 1#8
  | .badSigLh => 2#8
  | .outOfRange => 3#8
  | .truncated => 4#8
  | .lhMismatch => 5#8
  | .storedSize => 6#8
  | .cdRange => 7#8
  | .zeroCsize => 8#8
  | .badEocd => 9#8
  | .multiDisk => 1#8
  | .zip64 => 2#8
  | .encrypted => 3#8
  | .patch => 4#8
  | .method => 5#8
  | .noEocd => 1#8
  | .leadingSlash => 1#8
  | .backslash => 2#8
  | .colon => 3#8

/-- The cause of a failing host-memory access (60_exceptions.md R572: READ, WRITE). -/
def Access.cause : Access → Cause
  | .read => .busRead
  | .write => .busWrite

/-- The cause of an illegal command word (40_control.md R214). -/
def illegalCause : DecodeError → Cause
  | .unknownOpc => .unknownOpc
  | .reservedBits => .reservedBits

/-- STATUS.ERR of a completion code: codes from 0x10 up are errors (10_state.md R44; 60_exceptions.md R570). -/
def isError (code : Byte) : Bool := decide (0x10 ≤ code.toNat)

/-- A truth value as one bit. -/
def bit (b : Bool) : BitVec 1 := BitVec.ofBool b

/-- STATUS as the host reads it (10_state.md R44). -/
def Status.word (st : Status) : Word :=
  0#8 ++ st.lastOpc ++ 0#4 ++ bit st.ovr ++ bit (isError st.code) ++ bit st.cmpl ++ bit st.busy ++ st.code

/-- ENC_STATE.STATE as a number (10_state.md R54). -/
def EncPhase.num : EncPhase → BitVec 4
  | .idle => 0#4
  | .ready => 1#4
  | .drain => 2#4
  | .finishing => 3#4
  | .finished => 4#4
  | .failed => 5#4

/-- ENC_STATE.FLAGS, ZLIB at its bit 0 (10_state.md R54). -/
def EncFlags.bits (f : EncFlags) : BitVec 5 :=
  bit f.probesOvr ++ bit f.crcTap ++ bit f.filter ++ bit f.forceStatic ++ bit f.zlib

/-- ENC_STATE as the host reads it (10_state.md R54). -/
def Enc.stateWord (e : Enc) : Word := 0#4 ++ e.probes ++ 0#3 ++ e.flags.bits ++ e.level ++ e.phase.num

/-- ENC_PENDING as the host reads it (10_state.md R57). -/
def Enc.pendingWord (e : Enc) : Word :=
  0#13 ++ BitVec.ofNat 3 e.out.nbits ++ BitVec.ofNat 16 e.out.fifo.length

/-- DEC_STATE.STATE as a number (10_state.md R58). -/
def DecPhase.num : DecPhase → BitVec 5
  | .idle => 0#5
  | .zhdr => 1#5
  | .bhdr => 2#5
  | .storedLen => 3#5
  | .storedCopy => 4#5
  | .dynCounts => 5#5
  | .dynClen => 6#5
  | .dynLens => 7#5
  | .dataSym => 8#5
  | .litOut => 9#5
  | .lenExtra => 10#5
  | .distSym => 11#5
  | .distExtra => 12#5
  | .copy => 13#5
  | .ztrailer => 14#5
  | .done => 15#5
  | .failed => 16#5

/-- DEC_STATE.OMODE as a number (10_state.md R58). -/
def OMode.num : OMode → BitVec 2
  | .stream => 0#2
  | .oneshot => 1#2
  | .wrap => 2#2

/-- DEC_STATE as the host reads it (10_state.md R58). -/
def Dec.stateWord (d : Dec) : Word :=
  d.fcause ++ d.fcode ++ 0#1 ++ d.btype ++ bit d.bfinal ++ bit d.crcTap ++ d.omode.num ++ bit d.zlib ++ 0#3 ++ d.phase.num

/-- The completion interrupt, a level (60_exceptions.md R590). -/
def State.irq (s : State) : Bool := s.status.cmpl && s.irqEn

end Sys2Proof.Machine
end

