-- ==== Sys2Proof/Machine/Ops.lean ====
section
/-! DEFINITION. The operations every command is written over: host memory and DDICT, the decode-table slots, the block's memory
port (20_memory.md), a command's completion (60_exceptions.md R580, the block's trap entry), the register window (10_state.md)
and the host's actions (20_memory.md R150, R160; 70_reset_and_hazards.md R610). -/

namespace Sys2Proof.Machine

/-! Lists of cells by rising key: host memory, DDICT and the fast-path table. -/

/-- The value listed at a key, if any. -/
def cellAt {α : Type} : List (Nat × α) → Nat → Option α
  | [], _ => none
  | (k, v) :: rest, a => if k = a then some v else cellAt rest a

/-- List a value at a key, in place of any value listed there. -/
def putCell {α : Type} : List (Nat × α) → Nat → α → List (Nat × α)
  | [], a, v => [(a, v)]
  | (k, x) :: rest, a, v =>
      if a < k then (a, v) :: (k, x) :: rest
      else if a = k then (a, v) :: rest
      else (k, x) :: putCell rest a v

/-- List nothing at a key. -/
def dropCell {α : Type} : List (Nat × α) → Nat → List (Nat × α)
  | [], _ => []
  | (k, x) :: rest, a => if a = k then rest else (k, x) :: dropCell rest a

/-- The keys rise strictly. -/
def rising {α : Type} : List (Nat × α) → Bool
  | [] => true
  | (k, _) :: rest => rest.all (fun c => k < c.1) && rising rest

/-- What a byte of host memory that nothing has written reads as (log 1). -/
def Memory.unlisted : Byte := 0#8

/-- One byte of host memory. -/
def Memory.read (m : Memory) (a : Nat) : Byte := (cellAt m a).getD Memory.unlisted

/-- Write one byte of host memory, keeping the canonical form. -/
def Memory.write (m : Memory) (a : Nat) (b : Byte) : Memory :=
  if b = Memory.unlisted then dropCell m a else putCell m a b

/-- The canonical form: addresses rise, lie in the space of 20_memory.md R140, and no entry equals what an unlisted one reads. -/
def Memory.wf (m : Memory) : Bool := rising m && m.all (fun c => c.1 < 2 ^ 32 && c.2 != Memory.unlisted)

/-- DDICT[i]: the byte the decoder last wrote there, or the free value of a byte not written since reset (10_state.md R95). -/
def ddictRead (d : Memory) (i : Nat) : Byte := (cellAt d i).getD (Config.ddictUnwritten i)

/-! Decode-table slots (10_state.md R71). -/

/-- slot[k]. -/
def Slots.get (sl : Slots) (k : Fin 4) : Slot :=
  match k with
  | 0 => sl.s0
  | 1 => sl.s1
  | 2 => sl.s2
  | 3 => sl.s3

/-- slot[k] <- v. -/
def Slots.set (sl : Slots) (k : Fin 4) (v : Slot) : Slots :=
  match k with
  | 0 => { sl with s0 := v }
  | 1 => { sl with s1 := v }
  | 2 => { sl with s2 := v }
  | 3 => { sl with s3 := v }

/-! The host-memory port (20_memory.md R142 to R145). -/

/-- The hole lies over the address and refuses the access. -/
def MemHole.refuses (h : MemHole) (a : Nat) (w : Access) : Bool :=
  decide (h.base ≤ a) && decide (a < h.base + h.size) &&
    (match w with
    | .read => h.noRead
    | .write => h.noWrite)

/-- host_mem_ok(a, w): whether a byte access of the block completes (20_memory.md R142); there is no address past 2^32 (R140). -/
def State.memOk (s : State) (a : Nat) (w : Access) : Bool :=
  decide (a < 2 ^ 32) && !(s.plat.holes.any (fun h => h.refuses a w))

/-- MemRead(a, n): the bytes, or the address of the first failing read (20_memory.md R143, R145). -/
def State.readRange (s : State) : Nat → Nat → Except Nat (List Byte)
  | _, 0 => .ok []
  | a, n + 1 =>
      if s.memOk a .read then
        match s.readRange (a + 1) n with
        | .ok bs => .ok (s.mem.read a :: bs)
        | .error x => .error x
      else .error a

/-- Store one byte, with no check. -/
def State.poke (s : State) (a : Nat) (b : Byte) : State := { s with mem := s.mem.write a b }

/-- MemWrite(a, n, v): the state after the writes made, and the address of the failing write if one failed
(20_memory.md R143, R145). -/
def State.writeRange (s : State) : Nat → List Byte → State × Option Nat
  | _, [] => (s, none)
  | a, b :: bs => if s.memOk a .write then (s.poke a b).writeRange (a + 1) bs else (s, some a)

/-! Completion (00_scope.md R19; 60_exceptions.md R580, R581). -/

/-- The end of a command: STATUS, ERR_CAUSE, ERR_INFO and the results are written, BUSY falls, CMPL rises
(60_exceptions.md R580). Nothing else changes. -/
def State.complete (s : State) (code cause : Byte) (info r0 r1 : Word) : State :=
  { s with
    status := { code := code, busy := false, cmpl := true, ovr := s.status.ovr, lastOpc := s.cmd.setWidth 8 }
    errCause := if isError code then cause else 0#8
    errInfo := if isError code then info else 0#32
    result0 := r0
    result1 := r1 }

/-- What a command's finish(code) leaves: the code and the two results. -/
structure Finish where
  code : Code
  r0 : Word
  r1 : Word
  deriving DecidableEq, Repr

/-- What a command's raise CODE(cause, info) leaves; the results are 0 unless the rule gives partial counts
(60_exceptions.md R581). -/
structure Raise where
  code : Byte
  cause : Byte
  info : Word
  r0 : Word
  r1 : Word
  deriving DecidableEq, Repr

/-- A command's pseudocode: it changes the state and ends with a value, or with a raise that keeps the state reached. -/
abbrev Cmd := EStateM Raise State

/-- raise CODE(cause, info) (00_scope.md R19), the code being the cause's. -/
def Cause.raise {α : Type} (c : Cause) (info : Nat) : Cmd α :=
  throw { code := c.code.toByte, cause := c.num, info := BitVec.ofNat 32 info, r0 := 0#32, r1 := 0#32 }

/-- `if bad: raise CODE(cause, info)`, one check of a command's pseudocode. -/
def deny (bad : Bool) (c : Cause) (info : Nat) : Cmd Unit := if bad then c.raise info else pure ()

/-- finish(code) with the two results. -/
def finish (code : Code) (r0 r1 : Nat) : Cmd Finish :=
  pure { code := code, r0 := BitVec.ofNat 32 r0, r1 := BitVec.ofNat 32 r1 }

/-- Perform a command's pseudocode and its completion. -/
def runCmd (m : Cmd Finish) (s : State) : Outcome :=
  match m s with
  | .ok f t => .next (t.complete f.code.toByte 0#8 0#32 f.r0 f.r1)
  | .error e t => .next (t.complete e.code e.cause e.info e.r0 e.r1)

/-- MemRead(a, n) in a command; a failing read raises BUS_ERROR(READ, address) (20_memory.md R145). -/
def memRead (a n : Nat) : Cmd (List Byte) := fun s =>
  match s.readRange a n with
  | .ok bs => .ok bs s
  | .error x => Cause.raise .busRead x s

/-- MemWrite(a, n, v) in a command; a failing write raises BUS_ERROR(WRITE, address) (20_memory.md R145). -/
def memWrite (a : Nat) (bs : List Byte) : Cmd Unit := fun s =>
  match s.writeRange a bs with
  | (t, none) => .ok () t
  | (t, some x) => Cause.raise .busWrite x t

/-- The completion of an illegal command word: ILLEGAL_CMD, ERR_INFO the word (40_control.md R214; 60_exceptions.md R574). -/
def State.illegal (s : State) (e : DecodeError) : State :=
  s.complete (illegalCause e).code.toByte (illegalCause e).num s.cmd 0#32 0#32

/-! The register window (10_state.md R40, R41; 20_memory.md R150). -/

/-- What a word read of the register at an offset returns (10_state.md R41); an offset that is no register's reads 0. -/
def State.regRead (s : State) (off : Nat) : Word :=
  match off with
  | 0x000 => Config.id
  | 0x004 => s.cmd
  | 0x008 => s.status.word
  | 0x00C => (bit s.irqEn).setWidth 32
  | 0x010 => s.errCause.setWidth 32
  | 0x014 => s.errInfo
  | 0x018 => s.result0
  | 0x01C => s.result1
  | 0x020 => s.args.a0
  | 0x024 => s.args.a1
  | 0x028 => s.args.a2
  | 0x02C => s.args.a3
  | 0x030 => s.args.a4
  | 0x034 => s.args.a5
  | 0x038 => s.args.a6
  | 0x03C => s.args.a7
  | 0x040 => s.crcAcc
  | 0x044 => s.adlerAcc
  | 0x048 => s.enc.stateWord
  | 0x04C => s.enc.totalIn
  | 0x050 => s.enc.totalOut
  | 0x054 => s.enc.adler
  | 0x058 => s.enc.pendingWord
  | 0x060 => s.dec.stateWord
  | 0x064 => s.dec.totalIn
  | 0x068 => s.dec.totalOut
  | 0x06C => s.dec.adler
  | 0x070 => BitVec.ofNat 32 s.dec.opos
  | 0x074 => s.dec.wbase
  | 0x078 => s.dec.wsize
  | 0x07C => BitVec.ofNat 32 s.dec.hist
  | 0x080 => s.zf.verMade.setWidth 32
  | 0x084 => s.zf.verNeed.setWidth 32
  | 0x088 => s.zf.flags.setWidth 32
  | 0x08C => s.zf.method.setWidth 32
  | 0x090 => s.zf.time.setWidth 32
  | 0x094 => s.zf.date.setWidth 32
  | 0x098 => s.zf.crc
  | 0x09C => s.zf.csize
  | 0x0A0 => s.zf.usize
  | 0x0A4 => s.zf.nameLen.setWidth 32
  | 0x0A8 => s.zf.extraLen.setWidth 32
  | 0x0AC => s.zf.commentLen.setWidth 32
  | 0x0B0 => s.zf.diskStart.setWidth 32
  | 0x0B4 => s.zf.intAttr.setWidth 32
  | 0x0B8 => s.zf.extAttr
  | 0x0BC => s.zf.lhOfs
  | 0x0C0 => s.ze.disk.setWidth 32
  | 0x0C4 => s.ze.cdDisk.setWidth 32
  | 0x0C8 => s.ze.nentDisk.setWidth 32
  | 0x0CC => s.ze.nent
  | 0x0D0 => s.ze.cdSize
  | 0x0D4 => s.ze.cdOfs
  | 0x0D8 => s.ze.commentLen.setWidth 32
  | 0x0DC => s.ze.ofs
  | _ => 0#32

/-- A write to CMD while idle launches the command word (10_state.md R43). -/
def State.launch (s : State) (w : Word) : State :=
  { s with cmd := w, status := { s.status with busy := true, cmpl := false } }

/-- A write to STATUS while idle: CMPL and OVR are cleared by writing 1 to them (10_state.md R44). -/
def Status.clear (st : Status) (v : Word) : Status :=
  { st with cmpl := st.cmpl && !v.getLsbD 9, ovr := st.ovr && !v.getLsbD 11 }

/-- A word write to the register at an offset while BUSY = 0 (10_state.md R40, R41): a read-only register, a reserved offset
and an offset that is no register's ignore it. -/
def State.regWrite (s : State) (off : Nat) (v : Word) : State :=
  match off with
  | 0x004 => s.launch v
  | 0x008 => { s with status := s.status.clear v }
  | 0x00C => { s with irqEn := v.getLsbD 0 }
  | 0x020 => { s with args := { s.args with a0 := v } }
  | 0x024 => { s with args := { s.args with a1 := v } }
  | 0x028 => { s with args := { s.args with a2 := v } }
  | 0x02C => { s with args := { s.args with a3 := v } }
  | 0x030 => { s with args := { s.args with a4 := v } }
  | 0x034 => { s with args := { s.args with a5 := v } }
  | 0x038 => { s with args := { s.args with a6 := v } }
  | 0x03C => { s with args := { s.args with a7 := v } }
  | 0x040 => { s with crcAcc := v }
  | 0x044 => { s with adlerAcc := v }
  | 0x080 => { s with zf := { s.zf with verMade := v.setWidth 16 } }
  | 0x084 => { s with zf := { s.zf with verNeed := v.setWidth 16 } }
  | 0x088 => { s with zf := { s.zf with flags := v.setWidth 16 } }
  | 0x08C => { s with zf := { s.zf with method := v.setWidth 16 } }
  | 0x090 => { s with zf := { s.zf with time := v.setWidth 16 } }
  | 0x094 => { s with zf := { s.zf with date := v.setWidth 16 } }
  | 0x098 => { s with zf := { s.zf with crc := v } }
  | 0x09C => { s with zf := { s.zf with csize := v } }
  | 0x0A0 => { s with zf := { s.zf with usize := v } }
  | 0x0A4 => { s with zf := { s.zf with nameLen := v.setWidth 16 } }
  | 0x0A8 => { s with zf := { s.zf with extraLen := v.setWidth 16 } }
  | 0x0AC => { s with zf := { s.zf with commentLen := v.setWidth 16 } }
  | 0x0B0 => { s with zf := { s.zf with diskStart := v.setWidth 16 } }
  | 0x0B4 => { s with zf := { s.zf with intAttr := v.setWidth 16 } }
  | 0x0B8 => { s with zf := { s.zf with extAttr := v } }
  | 0x0BC => { s with zf := { s.zf with lhOfs := v } }
  | 0x0C0 => { s with ze := { s.ze with disk := v.setWidth 16 } }
  | 0x0C4 => { s with ze := { s.ze with cdDisk := v.setWidth 16 } }
  | 0x0C8 => { s with ze := { s.ze with nentDisk := v.setWidth 16 } }
  | 0x0CC => { s with ze := { s.ze with nent := v } }
  | 0x0D0 => { s with ze := { s.ze with cdSize := v } }
  | 0x0D4 => { s with ze := { s.ze with cdOfs := v } }
  | 0x0D8 => { s with ze := { s.ze with commentLen := v.setWidth 16 } }
  | 0x0DC => { s with ze := { s.ze with ofs := v } }
  | _ => s

/-- The window offset of an access that the block decodes: a 4-byte access at a multiple of 4 within the 256 bytes at
MMIO_BASE (10_state.md R40; 20_memory.md R150). -/
def State.windowOffset (s : State) (addr size : Nat) : Option Nat :=
  if s.plat.mmioBase ≤ addr ∧ addr < s.plat.mmioBase + 256 ∧ (addr - s.plat.mmioBase) % 4 = 0 ∧ size = 4 then
    some (addr - s.plat.mmioBase)
  else none

/-- A host write on the bus: not decoded, it does nothing; while BUSY = 1 it sets OVR and nothing else (10_state.md R45); else
it is the register write (20_memory.md R150). -/
def State.busWrite (s : State) (addr size : Nat) (v : Word) : State :=
  match s.windowOffset addr size with
  | none => s
  | some off => if s.status.busy then { s with status := { s.status with ovr := true } } else s.regWrite off v

/-- What a host read on the bus returns: not decoded, 0; else the register's word (20_memory.md R150; 10_state.md R45). -/
def State.busRead (s : State) (addr size : Nat) : Word :=
  match s.windowOffset addr size with
  | none => 0#32
  | some off => s.regRead off

/-! Reset (70_reset_and_hazards.md R610, R612; 40_control.md R212). -/

/-- Every register and internal item of the block at its reset value; host memory, the platform's data and the model's own
fields are not the block's and stay (70_reset_and_hazards.md R610). -/
def State.applyReset (s : State) : State :=
  { State.reset with mem := s.mem, plat := s.plat, hostq := s.hostq, busData := s.busData }

/-! The agents' turns (20_memory.md R160; log 3). -/

/-- The effect of one pending action of the host or the platform. The block's own turn is `step`'s. -/
def State.hostAct (s : State) : HostEvent → State
  | .write addr size v => s.busWrite addr size v
  | .read addr size => { s with busData := s.busRead addr size }
  | .store a b => s.poke a.toNat b
  | .rst => s.applyReset
  | .block => s

/-- The command word whose step the block performs (40_control.md R214). -/
def State.fetchWord (s : State) : Word := s.cmd

/-- The launch of a command word by the host, with no other action pending, so that the block moves next (log 6). -/
def State.launchNow (s : State) (w : Word) : State := { s.launch w with hostq := [] }

end Sys2Proof.Machine
end

