-- ==== Sys2Proof/Machine/Operands.lean ====
section
/-! DEFINITION. A command's operand forms: the range and overlap checks (00_scope.md R27; 20_memory.md R147, R148) and the
assembly of little- and big-endian fields from byte strings (00_scope.md R18, R27; 20_memory.md R149). -/

namespace Sys2Proof.Machine

/-- check range [a, a+n): NULL_BUF, then RANGE (20_memory.md R147). -/
def checkRange (a n : Nat) : Cmd Unit := do
  deny (decide (0 < n) && a == 0) .nullBuf 0
  deny (decide (2 ^ 32 < a + n)) .range a

/-- Two ranges (address, length) overlap: both are non-empty and share an address (20_memory.md R148). -/
def rangesOverlap (r q : Nat × Nat) : Bool :=
  decide (0 < r.2) && decide (0 < q.2) && decide (r.1 < q.1 + q.2) && decide (q.1 < r.1 + r.2)

/-- check overlap of the command's one output range with its input ranges (00_scope.md R27; 20_memory.md R148). -/
def checkOverlap (ins : List (Nat × Nat)) (out : Nat × Nat) : Cmd Unit := deny (ins.any (rangesOverlap out)) .overlap out.1

/-- Byte i of a byte string. -/
def byteAt (bs : List Byte) (i : Nat) : Nat := (bs.getD i 0#8).toNat

/-- LE16(s, i) (00_scope.md R27). -/
def le16 (bs : List Byte) (i : Nat) : Nat := byteAt bs i + 256 * byteAt bs (i + 1)

/-- LE32(s, i) (00_scope.md R27). -/
def le32 (bs : List Byte) (i : Nat) : Nat := le16 bs i + 65536 * le16 bs (i + 2)

/-- The two bytes of a 16-bit value, least significant first. -/
def bytes16 (v : Nat) : List Byte := [BitVec.ofNat 8 v, BitVec.ofNat 8 (v / 256)]

/-- The four bytes of a 32-bit value, least significant first. -/
def bytes32 (v : Nat) : List Byte := bytes16 v ++ bytes16 (v / 65536)

/-- The four bytes of a 32-bit value, most significant first. -/
def bytesBE32 (v : Nat) : List Byte := (bytes32 v).reverse

end Sys2Proof.Machine
end

