-- ==== Sys2Proof/Machine/Checksums.lean ====
section
/-! DEFINITION. The checksum functions and their six commands (41_checksums.md). -/

namespace Sys2Proof.Machine

/-- One bit of the reflected CRC-32 division (41_checksums.md R221). -/
def crcShift (c : Word) : Word := if c.getLsbD 0 then (c >>> 1) ^^^ Config.crcPoly else c >>> 1

/-- `n` bits of the division. -/
def crcShifts : Nat → Word → Word
  | 0, c => c
  | n + 1, c => crcShifts n (crcShift c)

/-- One byte into the inverted accumulator (41_checksums.md R221). -/
def crcStep (c : Word) (b : Byte) : Word := crcShifts 8 (c ^^^ b.setWidth 32)

/-- crc_update(acc, b) (41_checksums.md R221). -/
def crcUpdate (acc : Word) (bs : List Byte) : Word := bs.foldl crcStep (acc ^^^ 0xFFFFFFFF#32) ^^^ 0xFFFFFFFF#32

/-- One byte into the two sums (A, B) of Adler-32 (41_checksums.md R224). -/
def adlerStep (ab : Nat × Nat) (b : Byte) : Nat × Nat :=
  ((ab.1 + b.toNat) % Config.adlerMod, (ab.2 + (ab.1 + b.toNat) % Config.adlerMod) % Config.adlerMod)

/-- The accumulator of two sums (41_checksums.md R224). -/
def adlerPack (ab : Nat × Nat) : Word := BitVec.ofNat 32 (ab.2 * 65536 + ab.1)

/-- adler_update(acc, b); no byte leaves the accumulator as it is, unreduced (41_checksums.md R224, R226). -/
def adlerUpdate (acc : Word) (bs : List Byte) : Word :=
  match bs with
  | [] => acc
  | b :: rest => adlerPack ((b :: rest).foldl adlerStep (acc.toNat % 65536, acc.toNat / 65536))

/-- x[CRC_ACC] <- v. -/
def State.setCrc (s : State) (v : Word) : State := { s with crcAcc := v }

/-- x[ADLER_ACC] <- v. -/
def State.setAdler (s : State) (v : Word) : State := { s with adlerAcc := v }

/-- CRC_INIT (41_checksums.md R228). -/
def execCrcInit (s : State) : Outcome :=
  runCmd (do
    modify (State.setCrc · 0#32)
    finish .ok 0 0) s

/-- CRC_UPDATE (41_checksums.md R229). -/
def execCrcUpdate (s : State) : Outcome :=
  runCmd (do
    let a := s.args.a0.toNat
    let n := s.args.a1.toNat
    checkRange a n
    let data ← memRead a n
    modify (State.setCrc · (crcUpdate s.crcAcc data))
    finish .ok (crcUpdate s.crcAcc data).toNat n) s

/-- CRC_BYTE (41_checksums.md R230). -/
def execCrcByte (b : Byte) (s : State) : Outcome :=
  runCmd (do
    modify (State.setCrc · (crcUpdate s.crcAcc [b]))
    finish .ok (crcUpdate s.crcAcc [b]).toNat 1) s

/-- ADLER_INIT (41_checksums.md R232). -/
def execAdlerInit (s : State) : Outcome :=
  runCmd (do
    modify (State.setAdler · 1#32)
    finish .ok 1 0) s

/-- ADLER_UPDATE (41_checksums.md R233). -/
def execAdlerUpdate (s : State) : Outcome :=
  runCmd (do
    let a := s.args.a0.toNat
    let n := s.args.a1.toNat
    checkRange a n
    let data ← memRead a n
    modify (State.setAdler · (adlerUpdate s.adlerAcc data))
    finish .ok (adlerUpdate s.adlerAcc data).toNat n) s

/-- ADLER_BYTE (41_checksums.md R234). -/
def execAdlerByte (b : Byte) (s : State) : Outcome :=
  runCmd (do
    modify (State.setAdler · (adlerUpdate s.adlerAcc [b]))
    finish .ok (adlerUpdate s.adlerAcc [b]).toNat 1) s

end Sys2Proof.Machine
end

