-- ==== Sys2Proof/Machine/Control.lean ====
section
/-! DEFINITION. The control commands NOP and RESET (40_control.md R210, R212). -/

namespace Sys2Proof.Machine

/-- NOP (40_control.md R210). -/
def execNop (s : State) : Outcome := runCmd (finish .ok 0 0) s

/-- The state RESET leaves before its completion: every reset value, CTRL kept, CMD the command word (40_control.md R212;
70_reset_and_hazards.md R612). -/
def State.resetByCommand (s : State) : State := { s.applyReset with irqEn := s.irqEn, cmd := 0x00000001#32 }

/-- RESET (40_control.md R212). -/
def execReset (s : State) : Outcome :=
  runCmd (do
    modify State.resetByCommand
    finish .ok 0 0) s

end Sys2Proof.Machine
end

