-- ==== Sys2Proof/Machine/Huffman.lean ====
section
/-! DEFINITION. The Huffman coder, the decode-table generator and the five HUF_* commands (42_huffman.md). -/

namespace Sys2Proof.Machine

/-- rev_n(c): the n-bit value whose bit i is bit n-1-i of c (00_scope.md R20). -/
def revBits : Nat → Nat → Nat
  | 0, _ => 0
  | n + 1, c => c % 2 * 2 ^ n + revBits n (c / 2)

/-! Code-length vectors (42_huffman.md R250, R251). -/

/-- used(len) (42_huffman.md R250). -/
def usedCount (len : List Nat) : Nat := len.countP (fun l => 0 < l)

/-- A length's term of the scaled Kraft sum (42_huffman.md R251). -/
def kraftTerm (l : Nat) : Nat := if l = 0 then 0 else 2 ^ (15 - l)

/-- K(len), the Kraft sum scaled by 2^15 (42_huffman.md R251). -/
def kraft (len : List Nat) : Nat := (len.map kraftTerm).sum

/-- The lowest symbol whose length passes 15, if any (42_huffman.md R261, R264). -/
def badLength (len : List Nat) : Option Nat := len.findIdx? (fun l => 15 < l)

/-! The length builder (42_huffman.md R253 to R256). -/

/-- Insert a pair before the pairs of no lower frequency. -/
def insertByFreq (x : Nat × Nat) : List (Nat × Nat) → List (Nat × Nat)
  | [] => [x]
  | y :: ys => if x.1 ≤ y.1 then x :: y :: ys else y :: insertByFreq x ys

/-- U: the pairs (frequency, symbol) of the used symbols by rising frequency, equal ones by rising symbol (42_huffman.md R253). -/
def sortedUsed (freq : List Nat) : List (Nat × Nat) :=
  (freq.zipIdx.filter (fun p => 0 < p.1)).foldr insertByFreq []

/-- The array and the two pointers of the merge (42_huffman.md R254, phase 1). -/
structure Merge where
  a : List Nat
  root : Nat
  leaf : Nat
  deriving DecidableEq, Repr

/-- The first half of a merge step: A[next] takes the lesser of the two heads (42_huffman.md R254, phase 1). -/
def mergeFirst (m : Nat) (t : Merge) (next : Nat) : Merge :=
  if m ≤ t.leaf ∨ t.a.getD t.root 0 < t.a.getD t.leaf 0 then
    { t with a := (t.a.set next (t.a.getD t.root 0)).set t.root next, root := t.root + 1 }
  else { t with a := t.a.set next (t.a.getD t.leaf 0), leaf := t.leaf + 1 }

/-- The second half: the lesser of the two heads is added to A[next] (42_huffman.md R254, phase 1). -/
def mergeSecond (m : Nat) (t : Merge) (next : Nat) : Merge :=
  if m ≤ t.leaf ∨ (t.root < next ∧ t.a.getD t.root 0 < t.a.getD t.leaf 0) then
    { t with a := (t.a.set next (t.a.getD next 0 + t.a.getD t.root 0)).set t.root next, root := t.root + 1 }
  else { t with a := t.a.set next (t.a.getD next 0 + t.a.getD t.leaf 0), leaf := t.leaf + 1 }

/-- Phase 1: build the tree by a two-pointer merge (42_huffman.md R254). -/
def mergeTree (freqs : List Nat) : List Nat :=
  let start : Merge := { a := freqs.set 0 (freqs.getD 0 0 + freqs.getD 1 0), root := 0, leaf := 2 }
  ((List.range' 1 (freqs.length - 2)).foldl
    (fun t next => mergeSecond freqs.length (mergeFirst freqs.length t next) next) start).a

/-- Phase 2: parent pointers to the depths of the internal nodes (42_huffman.md R254). -/
def nodeDepths (a : List Nat) : List Nat :=
  (List.range (a.length - 2)).reverse.foldl (fun a next => a.set next (a.getD (a.getD next 0) 0 + 1))
    (a.set (a.length - 2) 0)

/-- The nodes just below index `r` that lie at depth `d`: their number, and the index below them (42_huffman.md R254, phase 3;
`r` is the spec's root pointer plus 1). -/
def nodesAtDepth (a : List Nat) (d : Nat) : Nat → Nat × Nat
  | 0 => (0, 0)
  | r + 1 =>
      if a.getD r 0 = d then ((nodesAtDepth a d r).1 + 1, (nodesAtDepth a d r).2) else (0, r + 1)

/-- Write `d` to the `k` entries just below index `next` (42_huffman.md R254, phase 3; `next` is the spec's pointer plus 1). -/
def fillDepth (d : Nat) : Nat → Nat → List Nat → List Nat
  | 0, _, a => a
  | k + 1, next, a => fillDepth d k (next - 1) (a.set (next - 1) d)

/-- Phase 3: depths of the internal nodes to depths of the leaves; one level of the tree a round, and a tree of m leaves has
fewer than m levels (42_huffman.md R254). -/
def leafDepths : Nat → Nat → Nat → Nat → Nat → List Nat → List Nat
  | 0, _, _, _, _, a => a
  | fuel + 1, avbl, depth, root, next, a =>
      if avbl = 0 then a
      else
        let nodes := nodesAtDepth a depth root
        leafDepths fuel (2 * nodes.1) (depth + 1) nodes.2 (next - (avbl - nodes.1))
          (fillDepth depth (avbl - nodes.1) next a)

/-- The depths of a minimum-redundancy code for two or more frequencies in rising order (42_huffman.md R254). -/
def codeDepths (freqs : List Nat) : List Nat :=
  leafDepths freqs.length 1 0 (freqs.length - 1) freqs.length (nodeDepths (mergeTree freqs))

/-- num[0..maxlen]: how many depths each length has, the deeper ones folded into maxlen; num[0] is unused (42_huffman.md R255). -/
def depthCounts (depths : List Nat) (maxlen : Nat) : List Nat :=
  0 :: (List.range' 1 (maxlen - 1)).map (fun d => depths.count d) ++ [depths.countP (fun d => maxlen ≤ d)]

/-- The Kraft sum of the counts, scaled by 2^maxlen (42_huffman.md R255). -/
def countsTotal (num : List Nat) (maxlen : Nat) : Nat :=
  ((List.range' 1 maxlen).map (fun d => num.getD d 0 * 2 ^ (maxlen - d))).sum

/-- Move one code from the highest non-empty length at most `d` to two codes one bit longer (42_huffman.md R255). -/
def splitCode (num : List Nat) : Nat → List Nat
  | 0 => num
  | d + 1 =>
      if num.getD (d + 1) 0 ≠ 0 then
        (num.set (d + 1) (num.getD (d + 1) 0 - 1)).set (d + 2) (num.getD (d + 2) 0 + 2)
      else splitCode num d

/-- One pass of the length limit for each unit the total lies above 2^maxlen (42_huffman.md R255). -/
def limitCounts (maxlen : Nat) : Nat → List Nat → List Nat
  | 0, num => num
  | k + 1, num => limitCounts maxlen k (splitCode (num.set maxlen (num.getD maxlen 0 - 1)) (maxlen - 1))

/-- The lengths of the used symbols, in rising order (42_huffman.md R255, R256). -/
def risingLengths (freqs : List Nat) (maxlen : Nat) : List Nat :=
  let num := depthCounts (codeDepths freqs) maxlen
  let num := limitCounts maxlen (countsTotal num maxlen - 2 ^ maxlen) num
  (List.range' 1 maxlen).flatMap (fun l => List.replicate (num.getD l 0) l)

/-- Give each (symbol, length) pair's symbol its length, every other symbol 0. -/
def assignLengths (n : Nat) (pairs : List (Nat × Nat)) : List Nat :=
  pairs.foldl (fun len p => len.set p.1 p.2) (List.replicate n 0)

/-- build_lengths(freq, maxlen) (42_huffman.md R253 to R256). -/
def buildLengths (freq : List Nat) (maxlen : Nat) : List Nat :=
  match sortedUsed freq with
  | [] => List.replicate freq.length 0
  | [p] => assignLengths freq.length [(p.2, 1)]
  | p :: q :: rest =>
      let used := p :: q :: rest
      assignLengths freq.length
        ((used.map (fun u => u.2)).reverse.zip (risingLengths (used.map (fun u => u.1)) maxlen))

/-! Canonical codes (42_huffman.md R260). -/

/-- From a length's first code and the counts of that length and the longer ones, the first codes of the longer lengths
(42_huffman.md R260). -/
def codeStarts : Nat → List Nat → List Nat
  | _, [] => []
  | code, count :: counts => (code + count) * 2 :: codeStarts ((code + count) * 2) counts

/-- next_code[0..15] before any symbol has its code; entry 0 is unused (42_huffman.md R260). -/
def nextCodes (len : List Nat) : List Nat :=
  0 :: codeStarts 0 (0 :: (List.range' 1 14).map (fun l => len.count l))

/-- code[s] for each symbol in turn, 0 for an unused one (42_huffman.md R260). -/
def assignCodes : List Nat → List Nat → List Nat
  | _, [] => []
  | next, l :: ls =>
      if l = 0 then 0 :: assignCodes next ls
      else next.getD l 0 :: assignCodes (next.set l (next.getD l 0 + 1)) ls

/-- The canonical codes of a code-length vector (42_huffman.md R260). -/
def canonicalCodes (len : List Nat) : List Nat := assignCodes (nextCodes len) len

/-! Decode tables (42_huffman.md R264 to R266). -/

/-- LEAF(L, sym) (42_huffman.md R266). -/
def leafEntry (l sym : Nat) : Half := BitVec.ofNat 16 (0x4000 + l * 2 ^ 9 + sym)

/-- NODE(n) (42_huffman.md R266). -/
def nodeEntry (n : Nat) : Half := BitVec.ofNat 16 (0x8000 + n)

/-- The node number of a NODE entry, its bits [13:0] (42_huffman.md R265). -/
def nodeOf (e : Half) : Nat := e.toNat % 2 ^ 14

/-- Enter a code of at most FAST_BITS bits: every fast entry whose low L bits are the code (42_huffman.md R265). -/
def enterShort (sl : Slot) (sym l r : Nat) : Slot :=
  { sl with
    fast := (List.range (2 ^ (Config.fastBits - l))).foldl (fun f k => f.set (r + k * 2 ^ l) (leafEntry l sym)) sl.fast }

/-- Follow, making nodes as needed, the bits r[b] of a long code from node `n`, for `k` bits; answers the last node
(42_huffman.md R265). -/
def walkTree (r : Nat) : Nat → Nat → Nat → Slot → Nat × Slot
  | 0, _, n, sl => (n, sl)
  | k + 1, b, n, sl =>
      let child := 2 * n + r / 2 ^ b % 2
      if sl.tree.getD child 0#16 = 0#16 then
        walkTree r k (b + 1) sl.nodes { sl with tree := sl.tree.set child (nodeEntry sl.nodes), nodes := sl.nodes + 1 }
      else walkTree r k (b + 1) (nodeOf (sl.tree.getD child 0#16)) sl

/-- Enter a code longer than FAST_BITS bits: its node below the fast entry, the walk, the leaf (42_huffman.md R265). -/
def enterLong (sl : Slot) (sym l r : Nat) : Slot :=
  let j := r % Config.fastEntries
  let sl :=
    if sl.fast.getD j 0#16 = 0#16 then { sl with fast := sl.fast.set j (nodeEntry sl.nodes), nodes := sl.nodes + 1 } else sl
  let walked := walkTree r (l - 11) 10 (nodeOf (sl.fast.getD j 0#16)) sl
  { walked.2 with tree := walked.2.tree.set (2 * walked.1 + r / 2 ^ (l - 1) % 2) (leafEntry l sym) }

/-- Enter one symbol, of length `l` and code `code`; an unused one has no entry (42_huffman.md R265). -/
def enterSymbol (sl : Slot) (sym l code : Nat) : Slot :=
  if l = 0 then sl
  else if l ≤ Config.fastBits then enterShort sl sym l (revBits l code)
  else enterLong sl sym l (revBits l code)

/-- The slot a valid code-length vector gives (42_huffman.md R264, R265). -/
def tableOf (len : List Nat) : Slot :=
  let start : Slot :=
    { Slot.empty with n := len.length, len := len ++ List.replicate (Config.maxSyms - len.length) 0, used := usedCount len }
  (len.zip (canonicalCodes len)).zipIdx.foldl (fun sl e => enterSymbol sl e.2 e.1.1 e.1.2) start

/-- dtable_build's answer: the slot, or the cause of the failure and its detail, the slot then being empty
(42_huffman.md R264). -/
def dtableBuild (len : List Nat) : Except (Cause × Nat) Slot :=
  match badLength len with
  | some i => .error (.badLength, i)
  | none =>
      if 2 ≤ usedCount len ∧ 2 ^ 15 < kraft len then .error (.oversubscribed, kraft len)
      else if 2 ≤ usedCount len ∧ kraft len < 2 ^ 15 then .error (.incomplete, kraft len)
      else .ok (tableOf len)

/-- slot[k] after dtable_build: what it built, or empty (42_huffman.md R264). -/
def builtSlot (r : Except (Cause × Nat) Slot) : Slot :=
  match r with
  | .ok sl => sl
  | .error _ => Slot.empty

/-! Decoding through a table, by the functional rule (42_huffman.md R270; log 12). -/

/-- What decode(slot, b, c) returns (42_huffman.md R270). -/
inductive Decoded where
  | symbol (i l : Nat)
  | needMore
  | invalid
  deriving DecidableEq, Repr

/-- A used symbol of a table: its number, its code length and rev_L of its code (42_huffman.md R270). -/
structure CodeWord where
  sym : Nat
  len : Nat
  rev : Nat
  deriving DecidableEq, Repr

/-- The used symbols of a code-length vector, in rising order (42_huffman.md R260, R270). -/
def codeWords (len : List Nat) : List CodeWord :=
  ((len.zip (canonicalCodes len)).zipIdx.filter (fun e => 0 < e.1.1)).map
    (fun e => { sym := e.2, len := e.1.1, rev := revBits e.1.1 e.1.2 })

/-- The code is a prefix of the c bits of b (42_huffman.md R270). -/
def CodeWord.within (w : CodeWord) (b c : Nat) : Bool := decide (w.len ≤ c) && b % 2 ^ w.len == w.rev

/-- The c bits of b are a proper prefix of the code (42_huffman.md R270). -/
def CodeWord.beyond (w : CodeWord) (b c : Nat) : Bool := decide (c < w.len) && w.rev % 2 ^ c == b % 2 ^ c

/-- decode(slot, b, c) over a slot's used symbols (42_huffman.md R270). -/
def decodeBits (ws : List CodeWord) (b c : Nat) : Decoded :=
  match ws.find? (fun w => w.within b c) with
  | some w => .symbol w.sym w.len
  | none => if ws.any (fun w => w.beyond b c) then .needMore else .invalid

/-- slot.len[0..n-1] (42_huffman.md R264). -/
def Slot.lengths (sl : Slot) : List Nat := sl.len.take sl.n

/-- decode(slot, b, c) (42_huffman.md R270). -/
def Slot.decode (sl : Slot) (b c : Nat) : Decoded := decodeBits (codeWords sl.lengths) b c

/-! Commands. -/

/-- A list of 16-bit little-endian entries from their bytes (20_memory.md R149). -/
def halves : List Byte → List Nat
  | lo :: hi :: rest => (lo.toNat + 256 * hi.toNat) :: halves rest
  | _ => []

/-- HUF_LENGTHS (42_huffman.md R252). -/
def execHufLengths (maxlen : Nat) (s : State) : Outcome :=
  runCmd (do
    let f := s.args.a0.toNat
    let n := s.args.a1.toNat
    let o := s.args.a2.toNat
    deny (maxlen == 0) .badMaxlen 0
    deny (decide (Config.maxSyms < n)) .badCount n
    checkRange f (2 * n)
    checkRange o n
    checkOverlap [(f, 2 * n)] (o, n)
    let bytes ← memRead f (2 * n)
    let freq := halves bytes
    let m := freq.countP (fun x => 0 < x)
    deny (decide (2 ^ maxlen < m)) .tooManySymbols m
    let len := buildLengths freq maxlen
    memWrite o (len.map (BitVec.ofNat 8))
    finish .ok m (len.foldl max 0)) s

/-- The entry HUF_CODES writes for a symbol of length `l` and code `code` (42_huffman.md R261). -/
def codeEntry (reverse : Bool) (l code : Nat) : Nat := if l = 0 then 0 else if reverse then revBits l code else code

/-- The raise of a failed dtable_build or code-length check (42_huffman.md R261, R264). -/
def checkLengths (len : List Nat) : Cmd Unit :=
  match badLength len with
  | some i => Cause.raise .badLength i
  | none => deny (decide (2 ^ 15 < kraft len)) .oversubscribed (kraft len)

/-- HUF_CODES (42_huffman.md R261). -/
def execHufCodes (reverse : Bool) (s : State) : Outcome :=
  runCmd (do
    let l := s.args.a0.toNat
    let n := s.args.a1.toNat
    let o := s.args.a2.toNat
    deny (decide (Config.maxSyms < n)) .badCount n
    checkRange l n
    checkRange o (2 * n)
    checkOverlap [(l, n)] (o, 2 * n)
    let bytes ← memRead l n
    let len := bytes.map BitVec.toNat
    checkLengths len
    memWrite o ((len.zip (canonicalCodes len)).flatMap (fun e => bytes16 (codeEntry reverse e.1 e.2)))
    finish .ok (usedCount len) (kraft len)) s

/-- slot[k] <- v. -/
def State.setSlot (s : State) (k : Fin 4) (v : Slot) : State := { s with slots := s.slots.set k v }

/-- A decoder stream is open: its state is not IDLE, DONE or FAILED (42_huffman.md R263). -/
def DecPhase.active (p : DecPhase) : Bool := p != .idle && p != .done && p != .failed

/-- The end of a table build: the raise of its failure, or its counts (42_huffman.md R263). -/
def finishTable (r : Except (Cause × Nat) Slot) : Cmd Finish :=
  match r with
  | .ok sl => finish .ok sl.used sl.nodes
  | .error e => Cause.raise e.1 e.2

/-- HUF_DTABLE (42_huffman.md R263). -/
def execHufDtable (slot : Fin 4) (s : State) : Outcome :=
  runCmd (do
    let l := s.args.a0.toNat
    let n := s.args.a1.toNat
    deny (decide (slot.val ≤ 2) && s.dec.phase.active) .decActive slot.val
    deny (decide (Config.maxSyms < n)) .badCount n
    checkRange l n
    let bytes ← memRead l n
    let r := dtableBuild (bytes.map BitVec.toNat)
    modify (State.setSlot · slot (builtSlot r))
    finishTable r) s

/-- HUF_DECODE's end for each answer of decode (42_huffman.md R272). -/
def finishDecode (d : Decoded) : Cmd Finish :=
  match d with
  | .symbol i l => finish .ok i l
  | .needMore => finish .needsInput 0 0
  | .invalid => Cause.raise .invalidCode 0

/-- HUF_DECODE (42_huffman.md R272). -/
def execHufDecode (slot : Fin 4) (s : State) : Outcome :=
  runCmd (do
    let c := s.args.a1.toNat
    deny (decide (32 < c)) .badCount c
    finishDecode ((s.slots.get slot).decode s.args.a0.toNat c)) s

/-- The entry HUF_PEEK reads (42_huffman.md R290). -/
def Slot.entry (sl : Slot) (tree : Bool) (j : Nat) : Half := if tree then sl.tree.getD j 0#16 else sl.fast.getD j 0#16

/-- HUF_PEEK (42_huffman.md R290). -/
def execHufPeek (slot : Fin 4) (tree : Bool) (index : Nat) (s : State) : Outcome :=
  runCmd (do
    deny (!tree && decide (1023 < index)) .badIndex index
    deny (tree && decide (575 < index)) .badIndex index
    finish .ok ((s.slots.get slot).entry tree index).toNat ((s.slots.get slot).used ||| (s.slots.get slot).nodes <<< 16)) s

end Sys2Proof.Machine
end

