-- ==== Sys2Proof/Machine/Deflate.lean ====
section
/-! DEFINITION. The tables of the DEFLATE format that the encoder and the decoder share (44_deflate_format.md R334 to R339). -/

namespace Sys2Proof.Machine

/-- LBASE[0..28] (44_deflate_format.md R334). -/
def lengthBases : List Nat :=
  [3, 4, 5, 6, 7, 8, 9, 10, 11, 13, 15, 17, 19, 23, 27, 31, 35, 43, 51, 59, 67, 83, 99, 115, 131, 163, 195, 227, 258]

/-- LEXTRA[0..28] (44_deflate_format.md R334). -/
def lengthExtras : List Nat :=
  [0, 0, 0, 0, 0, 0, 0, 0, 1, 1, 1, 1, 2, 2, 2, 2, 3, 3, 3, 3, 4, 4, 4, 4, 5, 5, 5, 5, 0]

/-- DBASE[0..29] (44_deflate_format.md R335). -/
def distBases : List Nat :=
  [1, 2, 3, 4, 5, 7, 9, 13, 17, 25, 33, 49, 65, 97, 129, 193, 257, 385, 513, 769, 1025, 1537, 2049, 3073, 4097, 6145, 8193
  , 12289, 16385, 24577]

/-- DEXTRA[0..29] (44_deflate_format.md R335). -/
def distExtras : List Nat :=
  [0, 0, 0, 0, 1, 1, 2, 2, 3, 3, 4, 4, 5, 5, 6, 6, 7, 7, 8, 8, 9, 9, 10, 10, 11, 11, 12, 12, 13, 13]

/-- LBASE[i]. -/
def lengthBase (i : Nat) : Nat := lengthBases.getD i 0

/-- LEXTRA[i]. -/
def lengthExtra (i : Nat) : Nat := lengthExtras.getD i 0

/-- DBASE[j]. -/
def distBase (j : Nat) : Nat := distBases.getD j 0

/-- DEXTRA[j]. -/
def distExtra (j : Nat) : Nat := distExtras.getD j 0

/-- The largest index of a rising list whose entry is at most `v` (44_deflate_format.md R339). -/
def baseIndex (bases : List Nat) (v : Nat) : Nat := (bases.filter (fun x => x ≤ v)).length - 1

/-- The i of the length symbol 257 + i that codes a length (44_deflate_format.md R339). -/
def lengthIndex (len : Nat) : Nat := baseIndex lengthBases len

/-- The distance symbol that codes a distance (44_deflate_format.md R339). -/
def distIndex (dist : Nat) : Nat := baseIndex distBases dist

/-- FIXED_LIT, the code lengths of the fixed literal/length code (44_deflate_format.md R336). -/
def fixedLit : List Nat :=
  List.replicate 144 8 ++ List.replicate 112 9 ++ List.replicate 24 7 ++ List.replicate 8 8

/-- FIXED_DIST, the code lengths of the fixed distance code (44_deflate_format.md R336). -/
def fixedDist : List Nat := List.replicate 32 5

/-- CLORDER, the order of the code-length code's lengths (44_deflate_format.md R337). -/
def clOrder : List Nat := [16, 17, 18, 0, 8, 7, 9, 6, 10, 5, 11, 4, 12, 3, 13, 2, 14, 1, 15]

end Sys2Proof.Machine
end

