-- ==== Sys2Proof/Machine/Stream.lean ====
section
/-! DEFINITION. What ENC_RUN and DEC_RUN share: a run over the machine's state with the bytes consumed and written so far, its
byte accesses to host memory, and its ends (45_encoder.md R390; 46_decoder.md R445, R446). -/

namespace Sys2Proof.Machine

/-- A run command under way: the state, `c` bytes consumed and `w` bytes written (45_encoder.md R390; 46_decoder.md R445). -/
structure Run where
  s : State
  c : Nat
  w : Nat
  deriving DecidableEq, Repr

/-- Why a run ends: done(code) or suspend(code), or an error with its cause and detail. -/
inductive Stop where
  | done (code : Code)
  | error (c : Cause) (info : Nat)
  deriving DecidableEq, Repr

/-- A run's pseudocode: it changes the run and goes on with a value, or ends. -/
abbrev RunM := EStateM Stop Run

/-- done(code), and the decoder's suspend(code). -/
def done {α : Type} (code : Code) : RunM α := throw (.done code)

/-- done(code) if a condition holds. -/
def doneIf (stop : Bool) (code : Code) : RunM Unit := if stop then done code else pure ()

/-- One byte read from host memory (20_memory.md R145). -/
def busRead (a : Nat) : RunM Byte := fun r =>
  if r.s.memOk a .read then .ok (r.s.mem.read a) r else .error (.error .busRead a) r

/-- One byte written to host memory (20_memory.md R145). -/
def busWrite (a : Nat) (b : Byte) : RunM Unit := fun r =>
  if r.s.memOk a .write then .ok () { r with s := r.s.poke a b } else .error (.error .busWrite a) r

/-- The raise that ends a failed run, with the run's partial counts (60_exceptions.md R581). -/
def Run.raised (r : Run) (c : Cause) (info : Nat) : Raise :=
  { code := c.code.toByte, cause := c.num, info := BitVec.ofNat 32 info, r0 := BitVec.ofNat 32 r.c, r1 := BitVec.ofNat 32 r.w }

/-- The finish that ends a run, with the run's counts. -/
def Run.finished (r : Run) (code : Code) : Finish :=
  { code := code, r0 := BitVec.ofNat 32 r.c, r1 := BitVec.ofNat 32 r.w }

end Sys2Proof.Machine
end

