-- ==== Sys2Proof/Machine/Decoder.lean ====
section
/-! DEFINITION. The DEFLATE decoder: its bit input, its output modes, the work of each of its states, DEC_INIT and DEC_RUN
(46_decoder.md). -/

namespace Sys2Proof.Machine

/-- dec.* <- d. -/
def State.setDec (s : State) (d : Dec) : State := { s with dec := d }

/-- Change dec.* in a run. -/
def decModify (f : Dec → Dec) : RunM Unit := modify (fun r => { r with s := r.s.setDec (f r.s.dec) })

/-- dec.*, in a run. -/
def getDec : RunM Dec := do return (← get).s.dec

/-- dec.state <- p. -/
def decGo (p : DecPhase) : RunM Unit := decModify (fun d => { d with phase := p })

/-- fail(cause): the detail is the stream's input offset (46_decoder.md R446). -/
def decFail {α : Type} (c : Cause) : RunM α := fun r => .error (.error c (r.s.dec.totalIn.toNat + r.c)) r

/-- fail(cause) if a condition holds. -/
def failIf (bad : Bool) (c : Cause) : RunM Unit := if bad then decFail c else pure ()

/-! Bit input (46_decoder.md R450, R452). `i` and `n` are the input's address and length. -/

/-- A byte into the BitBuffer at bit position nbits (46_decoder.md R450). -/
def Dec.feed (d : Dec) (b : Byte) : Dec :=
  { d with bitbuf := d.bitbuf ||| (b.setWidth 32 <<< d.nbits), nbits := d.nbits + 8 }

/-- The low k bits of the BitBuffer. -/
def Dec.low (d : Dec) (k : Nat) : Nat := d.bitbuf.toNat % 2 ^ k

/-- The BitBuffer without its low k bits. -/
def Dec.drop (d : Dec) (k : Nat) : Dec := { d with bitbuf := d.bitbuf >>> k, nbits := d.nbits - k }

/-- pull() (46_decoder.md R450). -/
def pull (i n : Nat) : RunM Unit := do
  let r ← get
  doneIf (decide (n ≤ r.c)) .needsInput
  let b ← busRead (i + r.c)
  modify (fun r => { r with s := r.s.setDec (r.s.dec.feed b), c := r.c + 1 })

/-- need(k), the input holding `left` more bytes (46_decoder.md R450). -/
def needUpTo (i n k : Nat) : Nat → RunM Unit
  | 0 => do
      let d ← getDec
      if d.nbits < k then pull i n
  | left + 1 => do
      let d ← getDec
      if d.nbits < k then
        pull i n
        needUpTo i n k left

/-- need(k) (46_decoder.md R450). -/
def need (i n k : Nat) : RunM Unit := do
  let r ← get
  needUpTo i n k (n - r.c)

/-- take(k) (46_decoder.md R450). -/
def take (i n k : Nat) : RunM Nat := do
  need i n k
  let d ← getDec
  decModify (fun d => d.drop k)
  return d.low k

/-- take(dec.nbits): the bits left of the current byte are discarded (46_decoder.md R457, R481). -/
def skipBits : RunM Unit := decModify (fun d => d.drop d.nbits)

/-- sym(t) over the used symbols of slot t, the input holding `left` more bytes (46_decoder.md R473). -/
def symUpTo (i n : Nat) (ws : List CodeWord) : Nat → RunM Nat
  | 0 => do
      let d ← getDec
      match decodeBits ws d.bitbuf.toNat d.nbits with
      | .symbol s l =>
          decModify (fun d => d.drop l)
          return s
      | .invalid => decFail .invalidCode
      | .needMore => done .needsInput
  | left + 1 => do
      let d ← getDec
      match decodeBits ws d.bitbuf.toNat d.nbits with
      | .symbol s l =>
          decModify (fun d => d.drop l)
          return s
      | .invalid => decFail .invalidCode
      | .needMore =>
          pull i n
          symUpTo i n ws left

/-- sym(t) (46_decoder.md R473). -/
def sym (i n : Nat) (t : Fin 4) : RunM Nat := do
  let r ← get
  symUpTo i n (codeWords (r.s.slots.get t).lengths) (n - r.c)

/-! Output (46_decoder.md R479 to R481, R486). `o` and `m` are the call's output address and limit. -/

/-- room() (46_decoder.md R480). -/
def Run.room (r : Run) (m : Nat) : Nat :=
  match r.s.dec.omode with
  | .stream | .wrap => m - r.w
  | .oneshot => r.s.dec.wsize.toNat - r.s.dec.opos

/-- The host address the next output byte goes to (46_decoder.md R480). -/
def Run.outAddr (r : Run) (o : Nat) : Nat :=
  match r.s.dec.omode with
  | .stream => o + r.w
  | .oneshot | .wrap => r.s.dec.wbase.toNat + r.s.dec.opos

/-- dec.opos after an output byte (46_decoder.md R480). -/
def Dec.nextPos (d : Dec) : Nat :=
  match d.omode with
  | .stream => (d.opos + 1) % Config.window
  | .oneshot => d.opos + 1
  | .wrap => (d.opos + 1) % d.wsize.toNat

/-- What an output byte changes besides host memory: DDICT, dec.opos, dec.hist, and the checksums (46_decoder.md R480, R486). -/
def State.decCount (s : State) (b : Byte) : State :=
  { s with
    ddict := if s.dec.omode = .stream then putCell s.ddict s.dec.opos b else s.ddict
    dec := { s.dec with
      opos := s.dec.nextPos
      hist := min (s.dec.hist + 1) Config.window
      adler := adlerUpdate s.dec.adler [b] }
    crcAcc := if s.dec.crcTap then crcUpdate s.crcAcc [b] else s.crcAcc }

/-- put(b) (46_decoder.md R480). -/
def putByte (o : Nat) (b : Byte) : RunM Unit := do
  let r ← get
  busWrite (r.outAddr o) b
  modify (fun r => { r with s := r.s.decCount b, w := r.w + 1 })

/-- An index `dist` positions back from `pos` in a ring of `size` (46_decoder.md R479: mod is the non-negative remainder). -/
def backIndex (pos dist size : Nat) : Nat := (pos + (size - dist % size)) % size

/-- hist_byte(D) (46_decoder.md R479). -/
def histByte (dist : Nat) : RunM Byte := do
  let r ← get
  match r.s.dec.omode with
  | .stream => return ddictRead r.s.ddict (backIndex r.s.dec.opos dist Config.window)
  | .oneshot => busRead (r.s.dec.wbase.toNat + r.s.dec.opos - dist)
  | .wrap => busRead (r.s.dec.wbase.toNat + backIndex r.s.dec.opos dist r.s.dec.wsize.toNat)

/-- suspend(HAS_MORE_OUTPUT) when there is no room (46_decoder.md R480). -/
def checkRoom (m : Nat) : RunM Unit := do
  let r ← get
  doneIf (r.room m == 0) .hasMoreOutput

/-- after_block() (46_decoder.md R481). -/
def afterBlock : RunM Unit := do
  let d ← getDec
  if d.bfinal then
    skipBits
    decGo (if d.zlib then .ztrailer else .done)
  else decGo .bhdr

/-! The work of each state (46_decoder.md R455 to R483). -/

/-- The zlib header's bytes are not those of a stream the block can decode (44_deflate_format.md R340; 46_decoder.md R455). -/
def badZlibHeader (cmf flg : Nat) : Bool :=
  (cmf * 256 + flg) % 31 != 0 || flg / 32 % 2 == 1 || cmf % 16 != 8 || decide (7 < cmf / 16)

/-- ZHDR (46_decoder.md R455). -/
def workZhdr (i n : Nat) : RunM Unit := do
  let v ← take i n 16
  let d ← getDec
  failIf (badZlibHeader (v % 256) (v / 256)) .badZhdr
  failIf (d.omode == .wrap && decide (d.wsize.toNat < 2 ^ (v % 256 / 16 + 8))) .windowTooSmall
  decGo .bhdr

/-- slot[k] <- v, in a run. -/
def runSetSlot (k : Fin 4) (v : Slot) : RunM Unit :=
  modify (fun r => { r with s := { r.s with slots := r.s.slots.set k v } })

/-- dtable_build(slot[k], len); a failure fails the stream with the given cause (42_huffman.md R264). -/
def buildSlot (k : Fin 4) (len : List Nat) (c : Cause) : RunM Unit := do
  runSetSlot k (builtSlot (dtableBuild len))
  match dtableBuild len with
  | .ok _ => pure ()
  | .error _ => decFail c

/-- BHDR (46_decoder.md R457). The fixed tables always build. -/
def workBhdr (i n : Nat) : RunM Unit := do
  let h ← take i n 3
  decModify (fun d => { d with bfinal := h % 2 == 1, btype := BitVec.ofNat 2 (h / 2) })
  if h / 2 = 0 then
    skipBits
    decGo .storedLen
  else if h / 2 = 1 then
    runSetSlot 0 (builtSlot (dtableBuild fixedLit))
    runSetSlot 1 (builtSlot (dtableBuild fixedDist))
    decGo .dataSym
  else if h / 2 = 2 then decGo .dynCounts
  else decFail .badBtype

/-- STORED_LEN (46_decoder.md R459). -/
def workStoredLen (i n : Nat) : RunM Unit := do
  let v ← take i n 32
  failIf (v % 65536 != v / 65536 ^^^ 0xFFFF) .storedLen
  decModify (fun d => { d with remaining := v % 65536 })
  decGo .storedCopy

/-- The bytes of a stored block, `k` being left (46_decoder.md R460). -/
def storedCopy (i n o m : Nat) : Nat → RunM Unit
  | 0 => pure ()
  | k + 1 => do
      checkRoom m
      let b ← take i n 8
      putByte o (BitVec.ofNat 8 b)
      decModify (fun d => { d with remaining := d.remaining - 1 })
      storedCopy i n o m k

/-- STORED_COPY (46_decoder.md R460). -/
def workStoredCopy (i n o m : Nat) : RunM Unit := do
  let d ← getDec
  storedCopy i n o m d.remaining
  afterBlock

/-- DYN_COUNTS (46_decoder.md R462). -/
def workDynCounts (i n : Nat) : RunM Unit := do
  let v ← take i n 14
  decModify (fun d => { d with hlit := v % 32 + 257, hdist := v / 32 % 32 + 1, hclen := v / 1024 % 16 + 4 })
  failIf (decide (286 < v % 32 + 257) || decide (30 < v / 32 % 32 + 1)) .badCounts
  decModify (fun d => { d with clen := List.replicate 19 0, ci := 0 })
  decGo .dynClen

/-- The code-length-code lengths, `k` being left (46_decoder.md R464). -/
def clenLoop (i n : Nat) : Nat → RunM Unit
  | 0 => pure ()
  | k + 1 => do
      let v ← take i n 3
      decModify (fun d => { d with clen := d.clen.set (clOrder.getD d.ci 19) v, ci := d.ci + 1 })
      clenLoop i n k

/-- DYN_CLEN (46_decoder.md R464). -/
def workDynClen (i n : Nat) : RunM Unit := do
  let d ← getDec
  clenLoop i n (d.hclen - d.ci)
  let d ← getDec
  buildSlot 2 d.clen .badClenTable
  decModify (fun d => { d with lens := [], pend := none })
  decGo .dynLens

/-- Append `r` copies of a length, or fail if they pass the last length (46_decoder.md R466). -/
def appendRepeat (bad : Bool) (r v : Nat) : RunM Unit := do
  decModify (fun d => { d with pend := none })
  failIf bad .badRepeat
  decModify (fun d => { d with lens := d.lens ++ List.replicate r v })

/-- The extra bits and the effect of a pending repeat symbol; `t` lengths are wanted in all (46_decoder.md R466). -/
def repeatLens (i n t s : Nat) : RunM Unit :=
  if s = 16 then do
    let v ← take i n 2
    let d ← getDec
    appendRepeat (d.lens.isEmpty || decide (t < d.lens.length + (v + 3))) (v + 3) (d.lens.getLastD 0)
  else if s = 17 then do
    let v ← take i n 3
    let d ← getDec
    appendRepeat (decide (t < d.lens.length + (v + 3))) (v + 3) 0
  else if s = 18 then do
    let v ← take i n 7
    let d ← getDec
    appendRepeat (decide (t < d.lens.length + (v + 11))) (v + 11) 0
  else decModify (fun d => { d with pend := none })

/-- One item of the code-length sequence (46_decoder.md R466). -/
def lensItem (i n t : Nat) : RunM Unit := do
  let d ← getDec
  match d.pend with
  | some s => repeatLens i n t s
  | none => do
      let s ← sym i n 2
      if s < 16 then decModify (fun d => { d with lens := d.lens ++ [s] })
      else
        decModify (fun d => { d with pend := some s })
        repeatLens i n t s

/-- The `while` loop of DYN_LENS. Each item but one left pending adds a length, so one more round than lengths wanted
suffices (46_decoder.md R466). -/
def lensLoop (i n t : Nat) : Nat → RunM Unit
  | 0 => pure ()
  | k + 1 => do
      let d ← getDec
      if d.lens.length < t then
        lensItem i n t
        lensLoop i n t k

/-- After the lengths (46_decoder.md R468). -/
def lensDone : RunM Unit := do
  let d ← getDec
  buildSlot 0 (d.lens.take d.hlit) .badLitlenTable
  buildSlot 1 (d.lens.drop d.hlit) .badDistTable
  failIf ((d.lens.take d.hlit).getD 256 0 == 0) .noEob
  decGo .dataSym

/-- DYN_LENS (46_decoder.md R466, R468). -/
def workDynLens (i n : Nat) : RunM Unit := do
  let d ← getDec
  lensLoop i n (d.hlit + d.hdist) (d.hlit + d.hdist - d.lens.length + 1)
  lensDone

/-- DATA_SYM (46_decoder.md R470, R474). -/
def workDataSym (i n : Nat) : RunM Unit := do
  let s ← sym i n 0
  if s < 256 then
    decModify (fun d => { d with lit := BitVec.ofNat 8 s })
    decGo .litOut
  else if s = 256 then afterBlock
  else if s ≤ 285 then
    decModify (fun d => { d with lsym := s - 257 })
    decGo .lenExtra
  else decFail .badSymbol

/-- LIT_OUT (46_decoder.md R471, R480). -/
def workLitOut (o m : Nat) : RunM Unit := do
  checkRoom m
  let d ← getDec
  putByte o d.lit
  decGo .dataSym

/-- LEN_EXTRA (46_decoder.md R472). -/
def workLenExtra (i n : Nat) : RunM Unit := do
  let d ← getDec
  let v ← take i n (lengthExtra d.lsym)
  decModify (fun d => { d with mlen := lengthBase d.lsym + v })
  decGo .distSym

/-- DIST_SYM (46_decoder.md R476, R474). -/
def workDistSym (i n : Nat) : RunM Unit := do
  let s ← sym i n 1
  failIf (decide (29 < s)) .badSymbol
  decModify (fun d => { d with dsym := s })
  decGo .distExtra

/-- The farthest distance a back-reference may have (46_decoder.md R478). -/
def Dec.reach (d : Dec) : Nat :=
  match d.omode with
  | .stream | .oneshot => d.hist
  | .wrap => min d.hist d.wsize.toNat

/-- DIST_EXTRA, with the distance check (46_decoder.md R477, R478). -/
def workDistExtra (i n : Nat) : RunM Unit := do
  let d ← getDec
  let v ← take i n (distExtra d.dsym)
  decModify (fun d => { d with mdist := distBase d.dsym + v })
  let d ← getDec
  failIf (decide (d.reach < d.mdist)) .distTooFar
  decGo .copy

/-- The bytes of a back-reference, `k` being left (46_decoder.md R479). -/
def copyLoop (o m : Nat) : Nat → RunM Unit
  | 0 => pure ()
  | k + 1 => do
      checkRoom m
      let d ← getDec
      let b ← histByte d.mdist
      putByte o b
      decModify (fun d => { d with mlen := d.mlen - 1 })
      copyLoop o m k

/-- COPY (46_decoder.md R479). -/
def workCopy (o m : Nat) : RunM Unit := do
  let d ← getDec
  copyLoop o m d.mlen
  decGo .dataSym

/-- The trailer's value from the four bytes taken low byte first (46_decoder.md R483). -/
def trailerValue (v : Nat) : Nat :=
  v % 256 * 2 ^ 24 + v / 2 ^ 8 % 256 * 2 ^ 16 + v / 2 ^ 16 % 256 * 2 ^ 8 + v / 2 ^ 24 % 256

/-- ZTRAILER (46_decoder.md R483). -/
def workZtrailer (i n : Nat) : RunM Unit := do
  let v ← take i n 32
  let d ← getDec
  failIf (trailerValue v != d.adler.toNat) .adlerMismatch
  decGo .done

/-- The work of a state (46_decoder.md R445). IDLE, DONE and FAILED have none: DEC_RUN ends before it runs in them. -/
def decWork (i n o m : Nat) : DecPhase → RunM Unit
  | .zhdr => workZhdr i n
  | .bhdr => workBhdr i n
  | .storedLen => workStoredLen i n
  | .storedCopy => workStoredCopy i n o m
  | .dynCounts => workDynCounts i n
  | .dynClen => workDynClen i n
  | .dynLens => workDynLens i n
  | .dataSym => workDataSym i n
  | .litOut => workLitOut o m
  | .lenExtra => workLenExtra i n
  | .distSym => workDistSym i n
  | .distExtra => workDistExtra i n
  | .copy => workCopy o m
  | .ztrailer => workZtrailer i n
  | .idle | .done | .failed => pure ()

/-- The `repeat` loop of DEC_RUN, over at most `fuel` rounds (46_decoder.md R445; log 11). -/
def decLoop (i n o m : Nat) : Nat → RunM Unit
  | 0 => pure ()
  | fuel + 1 => do
      let d ← getDec
      decWork i n o m d.phase
      let d ← getDec
      if d.phase = .done then pure () else decLoop i n o m fuel

/-- The rounds a state can take without a bit of input (log 11). -/
def DecPhase.rank : DecPhase → Nat
  | .distExtra | .dynClen => 2
  | .litOut | .lenExtra | .copy | .storedCopy | .dynLens => 1
  | .idle | .zhdr | .bhdr | .storedLen | .dynCounts | .dataSym | .distSym | .ztrailer | .done | .failed => 0

/-- What falls at every round of the loop: three for each bit of input left, and the state's rank (log 11). -/
def Run.decMeasure (n : Nat) (r : Run) : Nat := 3 * (8 * (n - r.c) + r.s.dec.nbits) + r.s.dec.phase.rank

/-- DEC_RUN after its checks (46_decoder.md R445). -/
def decBody (i n o m : Nat) : RunM Unit := do
  let r ← get
  decLoop i n o m (r.decMeasure n + 1)

/-- The totals advanced by the run's counts (46_decoder.md R445). -/
def Run.decTally (r : Run) : State :=
  r.s.setDec { r.s.dec with
    totalIn := r.s.dec.totalIn + BitVec.ofNat 32 r.c
    totalOut := r.s.dec.totalOut + BitVec.ofNat 32 r.w }

/-- The failure record of a failed stream (46_decoder.md R446). -/
def State.decFailed (s : State) (c : Cause) (info : Nat) : State :=
  s.setDec { s.dec with phase := .failed, fcode := c.code.toByte, fcause := c.num, finfo := BitVec.ofNat 32 info }

/-- The end of DEC_RUN: done(DONE), a suspension, or a failure of the stream; none if the loop ended short of one (log 11). -/
def decEnd (res : EStateM.Result Stop Run Unit) : EStateM.Result Raise State (Option Finish) :=
  match res with
  | .ok () r => if r.s.dec.phase = .done then .ok (some (r.finished .done)) r.decTally else .ok none r.s
  | .error (.done code) r => .ok (some (r.finished code)) r.decTally
  | .error (.error c info) r => .error (r.raised c info) (r.decTally.decFailed c info)

/-- The output range DEC_RUN's input must not overlap (46_decoder.md R445). -/
def Dec.outRange (d : Dec) (o m : Nat) : Nat × Nat :=
  match d.omode with
  | .stream => (o, m)
  | .oneshot | .wrap => (d.wbase.toNat, d.wsize.toNat)

/-- The check of the call's output range, which only STREAM mode names (46_decoder.md R445). -/
def checkOutput (d : Dec) (o m : Nat) : Cmd Unit :=
  match d.omode with
  | .stream => checkRange o m
  | .oneshot | .wrap => pure ()

/-- DEC_RUN's checks and run in an open stream (46_decoder.md R445). -/
def decOpen (d : Dec) (i n o m : Nat) : Cmd (Option Finish) := do
  checkRange i n
  checkOutput d o m
  checkOverlap [(i, n)] (d.outRange o m)
  (fun t => decEnd (decBody i n o m { s := t, c := 0, w := 0 }))

/-- DEC_RUN's pseudocode (46_decoder.md R445, R446). -/
def decRun (s : State) : Cmd (Option Finish) :=
  match s.dec.phase with
  | .idle => Cause.raise .noStream 0
  | .failed => throw { code := s.dec.fcode, cause := s.dec.fcause, info := s.dec.finfo, r0 := 0#32, r1 := 0#32 }
  | .done => pure (some { code := .done, r0 := 0#32, r1 := 0#32 })
  | .zhdr | .bhdr | .storedLen | .storedCopy | .dynCounts | .dynClen | .dynLens | .dataSym | .litOut | .lenExtra | .distSym
  | .distExtra | .copy | .ztrailer =>
      decOpen s.dec s.args.a0.toNat s.args.a1.toNat s.args.a2.toNat s.args.a3.toNat

/-- DEC_RUN (46_decoder.md R445). Laws/Decoder.lean proves that the fault is never raised. -/
def execDecRun (s : State) : Outcome :=
  match decRun s s with
  | .ok (some f) t => .next (t.complete f.code.toByte 0#8 0#32 f.r0 f.r1)
  | .ok none _ => .fault .decoderStalled
  | .error e t => .next (t.complete e.code e.cause e.info e.r0 e.r1)

/-! DEC_INIT (46_decoder.md R440). -/

/-- OMODE from its number; 3 is no mode (46_decoder.md R441). -/
def omodeOf (om : Nat) : Option OMode :=
  match om with
  | 0 => some .stream
  | 1 => some .oneshot
  | 2 => some .wrap
  | _ => none

/-- The decoder a DEC_INIT opens (46_decoder.md R440). -/
def Dec.opened (zlib : Bool) (om : OMode) (crcTap : Bool) (wb ws : Word) : Dec :=
  { Dec.reset with
    phase := if zlib then .zhdr else .bhdr
    zlib := zlib
    omode := om
    crcTap := crcTap
    wbase := wb
    wsize := ws }

/-- A nonzero power of two, by the rule's test (46_decoder.md R440). -/
def powerOfTwo (ws : Word) : Bool := ws != 0#32 && (ws &&& (ws - 1#32)) == 0#32

/-- DEC_INIT's window checks in the modes that have a host window (46_decoder.md R440). -/
def checkWindow (om : OMode) (wb ws : Word) : Cmd Unit := do
  deny (om == .wrap && !powerOfTwo ws) .badWindow ws.toNat
  checkRange wb.toNat ws.toNat

/-- DEC_INIT for a valid mode (46_decoder.md R440). -/
def decInit (zlib : Bool) (om : OMode) (crcTap : Bool) (s : State) : Cmd Finish :=
  match om with
  | .stream => do
      modify (State.setDec · (Dec.opened zlib .stream crcTap 0#32 (BitVec.ofNat 32 Config.window)))
      finish .ok 0 0
  | .oneshot => do
      checkWindow .oneshot s.args.a2 s.args.a3
      modify (State.setDec · (Dec.opened zlib .oneshot crcTap s.args.a2 s.args.a3))
      finish .ok 0 0
  | .wrap => do
      checkWindow .wrap s.args.a2 s.args.a3
      modify (State.setDec · (Dec.opened zlib .wrap crcTap s.args.a2 s.args.a3))
      finish .ok 0 0

/-- DEC_INIT (46_decoder.md R440). -/
def execDecInit (zlib : Bool) (omode : Nat) (crcTap : Bool) (s : State) : Outcome :=
  runCmd (match omodeOf omode with
    | none => Cause.raise .badMode 3
    | some om => decInit zlib om crcTap s) s

end Sys2Proof.Machine
end

