-- ==== Sys2Proof/Machine/Match.lean ====
section
/-! DEFINITION. The LZ77 match finder, the fast path's search, LZ_FIND and LZ_HASH (43_lz77.md). -/

namespace Sys2Proof.Machine

/-- hash15(b0, b1, b2) (43_lz77.md R301). -/
def hash15 (b0 b1 b2 : Byte) : Word :=
  ((b0.setWidth 32 <<< 10) ^^^ (b1.setWidth 32 <<< 5) ^^^ b2.setWidth 32) &&& 0x7FFF#32

/-- hash12(b0, b1, b2) (43_lz77.md R301). -/
def hash12 (b0 b1 b2 : Byte) : Word := hash15 b0 b1 b2 &&& 0x0FFF#32

/-- hash15 of the first three bytes of a byte string. -/
def chainHash (bs : List Byte) : Word := hash15 (bs.getD 0 0#8) (bs.getD 1 0#8) (bs.getD 2 0#8)

/-- hash12 of the first three bytes of a byte string. -/
def slotHash (bs : List Byte) : Word := hash12 (bs.getD 0 0#8) (bs.getD 1 0#8) (bs.getD 2 0#8)

/-- No match, (0, 0) (43_lz77.md R300). -/
def Match.none : Match := { len := 0, dist := 0 }

/-- How many of the first `cap` bytes of two byte strings agree (43_lz77.md R304, R310). -/
def agreeing : Nat → List Byte → List Byte → Nat
  | cap + 1, a :: as, b :: bs => if a = b then agreeing cap as bs + 1 else 0
  | _, _, _ => 0

/-- The better of the best match so far and a candidate: only a longer one replaces it (43_lz77.md R304). -/
def Match.better (best : Match) (len dist : Nat) : Match := if best.len < len then { len := len, dist := dist } else best

/-- The walk of find: `back` are the bytes before the last candidate, nearest first; `here` are the bytes from the last candidate
on; `h` is the hash at P, `dist` the next candidate's distance and `probes` the comparisons left (43_lz77.md R304). -/
def findWalk (h : Word) (cur : List Byte) (maxlen : Nat) : List Byte → List Byte → Nat → Nat → Match → Match
  | [], _, _, _, best => best
  | b :: back, here, dist, probes, best =>
      if probes = 0 then best
      else if chainHash (b :: here) = h then
        let best := best.better (agreeing maxlen (b :: here) cur) dist
        if best.len = maxlen then best else findWalk h cur maxlen back (b :: here) (dist + 1) (probes - 1) best
      else findWalk h cur maxlen back (b :: here) (dist + 1) probes best

/-- find(S, base, P, maxlen, probes) (43_lz77.md R304): the candidates are the positions below P down to
max(base, P - 32768). -/
def find (s : List Byte) (base p maxlen probes : Nat) : Match :=
  if maxlen < Config.minMatch ∨ probes = 0 then Match.none
  else
    findWalk (chainHash (s.drop p)) (s.drop p) maxlen ((s.take p).reverse.take (p - max base (p - Config.window)))
      (s.drop p) 1 probes Match.none

/-- accept(L, D, reject, filter) (43_lz77.md R305). -/
def accept (m : Match) (reject filter : Bool) : Match :=
  if m.len < Config.minMatch then Match.none
  else if reject && m.len == 3 && decide (Config.len3Far < m.dist) then Match.none
  else if filter && decide (m.len ≤ 5) then Match.none
  else m

/-- The comparison of the fast path with the position its table slot held (43_lz77.md R310). -/
def fastCompare (s : List Byte) (base p maxlen : Nat) (slot : Option Nat) : Match :=
  match slot with
  | none => Match.none
  | some q =>
      if q < base ∨ Config.window < p - q then Match.none
      else accept { len := agreeing maxlen (s.drop q) (s.drop p), dist := p - q } true false

/-- The fast path's search at P: the match, and fasttab with P entered (43_lz77.md R310). -/
def fastSearch (s : List Byte) (base p maxlen : Nat) (tab : List (Nat × Nat)) : Match × List (Nat × Nat) :=
  if maxlen < Config.minMatch then (Match.none, tab)
  else
    let h := (slotHash (s.drop p)).toNat
    (fastCompare s base p maxlen (cellAt tab h), putCell tab h p)

/-- The bytes LZ_FIND reads: none when the cap is below MIN_MATCH (43_lz77.md R302). -/
def readWindow (a n maxlen : Nat) : Cmd (List Byte) := if Config.minMatch ≤ maxlen then memRead a n else pure []

/-- LZ_FIND (43_lz77.md R302). -/
def execLzFind (reject filter : Bool) (probes : Nat) (s : State) : Outcome :=
  runCmd (do
    let b := s.args.a0.toNat
    let n := s.args.a1.toNat
    let p := s.args.a2.toNat
    let m := s.args.a3.toNat
    deny (decide (Config.maxMatch < m)) .badMaxlen m
    checkRange b n
    deny (decide (n ≤ p)) .lenRange p
    let maxlen := min m (n - p)
    let lo := p - Config.window
    let w ← readWindow (b + lo) (p + maxlen - lo) maxlen
    let r := accept (find w 0 (p - lo) maxlen probes) reject filter
    finish .ok r.len r.dist) s

/-- LZ_HASH (43_lz77.md R308). -/
def execLzHash (fast : Bool) (s : State) : Outcome :=
  runCmd (do
    let v := s.args.a0
    let hash := if fast then hash12 else hash15
    finish .ok (hash (v.setWidth 8) ((v >>> 8).setWidth 8) ((v >>> 16).setWidth 8)).toNat 0) s

end Sys2Proof.Machine
end

