-- ==== Sys2Proof/Machine/Encoder.lean ====
section
/-! DEFINITION. The DEFLATE encoder: the bitstream formatter, the block policy, the parse, the flushes, ENC_INIT and ENC_RUN
(45_encoder.md). -/

namespace Sys2Proof.Machine

/-! The bitstream formatter (10_state.md R84; 45_encoder.md R409). A field is a pair (value, width). -/

/-- Move the low byte of the BitBuffer to the FIFO, `k` times (10_state.md R84). -/
def BitSink.spill : Nat → BitSink → BitSink
  | 0, o => o
  | k + 1, o =>
      BitSink.spill k { bitbuf := o.bitbuf >>> 8, nbits := o.nbits - 8, fifo := o.fifo ++ [o.bitbuf.setWidth 8] }

/-- putbits(v, n) (00_scope.md R20; 10_state.md R84). -/
def BitSink.put (o : BitSink) (field : Nat × Nat) : BitSink :=
  BitSink.spill ((o.nbits + field.2) / 8)
    { o with bitbuf := o.bitbuf ||| (BitVec.ofNat 32 (field.1 % 2 ^ field.2) <<< o.nbits), nbits := o.nbits + field.2 }

/-- Several putbits in order. -/
def BitSink.puts (o : BitSink) (fields : List (Nat × Nat)) : BitSink := fields.foldl BitSink.put o

/-- align(): zero bits until nbits = 0 (45_encoder.md R410). -/
def BitSink.align (o : BitSink) : BitSink := o.put (0, (8 - o.nbits) % 8)

/-- Bytes as fields of 8 bits. -/
def byteFields (bs : List Byte) : List (Nat × Nat) := bs.map (fun b => (b.toNat, 8))

/-- The bits a list of fields takes. -/
def fieldsWidth (fields : List (Nat × Nat)) : Nat := (fields.map (fun f => f.2)).sum

/-! Tables of a block (45_encoder.md R405, R411 to R414). -/

/-- A code: its lengths and its canonical codes (45_encoder.md R411). -/
structure CodeTable where
  len : List Nat
  code : List Nat
  deriving DecidableEq, Repr

/-- The canonical code of a length vector (42_huffman.md R260, R262). -/
def CodeTable.of (len : List Nat) : CodeTable := { len := len, code := canonicalCodes len }

/-- A symbol's code as a field, rev_L(code) in L bits (45_encoder.md R411). -/
def CodeTable.field (t : CodeTable) (sym : Nat) : Nat × Nat :=
  (revBits (t.len.getD sym 0) (t.code.getD sym 0), t.len.getD sym 0)

/-- The fields of a record (45_encoder.md R411). -/
def tokenFields (lt dt : CodeTable) : Token → List (Nat × Nat)
  | .lit b => [lt.field b.toNat]
  | .copy len dist =>
      [lt.field (257 + lengthIndex len), (len - lengthBase (lengthIndex len), lengthExtra (lengthIndex len))
      , dt.field (distIndex dist), (dist - distBase (distIndex dist), distExtra (distIndex dist))]

/-- The fields of a block's records and its end-of-block symbol (45_encoder.md R411). -/
def bodyFields (lt dt : CodeTable) (toks : List Token) : List (Nat × Nat) :=
  toks.flatMap (tokenFields lt dt) ++ [lt.field 256]

/-- The bits of a record under code lengths `ll` and `dl` (45_encoder.md R407). -/
def tokenCost (ll dl : List Nat) : Token → Nat
  | .lit b => ll.getD b.toNat 0
  | .copy len dist =>
      ll.getD (257 + lengthIndex len) 0 + lengthExtra (lengthIndex len) + dl.getD (distIndex dist) 0
        + distExtra (distIndex dist)

/-- T(ll, dl) (45_encoder.md R407). -/
def bodyCost (ll dl : List Nat) (toks : List Token) : Nat := (toks.map (tokenCost ll dl)).sum + ll.getD 256 0

/-- Add 1 to an entry. -/
def bump (counts : List Nat) (i : Nat) : List Nat := counts.set i (counts.getD i 0 + 1)

/-- A record's literal/length symbol (45_encoder.md R405). -/
def Token.litSym : Token → Nat
  | .lit b => b.toNat
  | .copy len _ => 257 + lengthIndex len

/-- A record's distance symbol, if it has one (45_encoder.md R405). -/
def Token.distSym : Token → Option Nat
  | .lit _ => none
  | .copy _ dist => some (distIndex dist)

/-- lf[0..285] (45_encoder.md R405). -/
def litFreqs (toks : List Token) : List Nat := bump ((toks.map Token.litSym).foldl bump (List.replicate 286 0)) 256

/-- df[0..29] (45_encoder.md R405). -/
def distFreqs (toks : List Token) : List Nat := (toks.filterMap Token.distSym).foldl bump (List.replicate 30 0)

/-- Drop trailing zeros down to `least` entries: how many entries are left (45_encoder.md R412). -/
def trimmed (sizes : List Nat) (least : Nat) : Nat → Nat
  | 0 => 0
  | k + 1 => if least < k + 1 ∧ sizes.getD k 0 = 0 then trimmed sizes least k else k + 1

/-- The working variables of rle_pack (45_encoder.md R414). An item is a symbol with its repeat value, 0 for a length. -/
structure Packer where
  out : List (Nat × Nat)
  prev : Nat
  rz : Nat
  rr : Nat
  deriving DecidableEq, Repr

/-- flush_rr() (45_encoder.md R414). -/
def Packer.flushRepeats (k : Packer) : Packer :=
  if k.rr = 0 then k
  else if k.rr < 3 then { k with out := k.out ++ List.replicate k.rr (k.prev, 0), rr := 0 }
  else { k with out := k.out ++ [(16, k.rr - 3)], rr := 0 }

/-- flush_rz() (45_encoder.md R414). -/
def Packer.flushZeros (k : Packer) : Packer :=
  if k.rz = 0 then k
  else if k.rz < 3 then { k with out := k.out ++ List.replicate k.rz (0, 0), rz := 0 }
  else if k.rz ≤ 10 then { k with out := k.out ++ [(17, k.rz - 3)], rz := 0 }
  else { k with out := k.out ++ [(18, k.rz - 11)], rz := 0 }

/-- A zero length (45_encoder.md R414). -/
def Packer.zero (k : Packer) : Packer :=
  let k := k.flushRepeats
  let k := { k with rz := k.rz + 1 }
  if k.rz = 138 then k.flushZeros else k

/-- A nonzero length (45_encoder.md R414). -/
def Packer.nonzero (k : Packer) (s : Nat) : Packer :=
  let k := k.flushZeros
  if s ≠ k.prev then
    let k := k.flushRepeats
    { k with out := k.out ++ [(s, 0)] }
  else
    let k := { k with rr := k.rr + 1 }
    if k.rr = 6 then k.flushRepeats else k

/-- One length (45_encoder.md R414). -/
def Packer.add (k : Packer) (s : Nat) : Packer := { (if s = 0 then k.zero else k.nonzero s) with prev := s }

/-- rle_pack's packed sequence (45_encoder.md R414). -/
def rlePack (sizes : List Nat) : List (Nat × Nat) :=
  let k := sizes.foldl Packer.add { out := [], prev := 0xFF, rz := 0, rr := 0 }
  (if 0 < k.rr then k.flushRepeats else k.flushZeros).out

/-- rle_pack's cf[0..18]: how often each symbol occurs (45_encoder.md R414). -/
def packFreqs (packed : List (Nat × Nat)) : List Nat :=
  (List.range 19).map (fun c => packed.countP (fun item => item.1 == c))

/-- The extra bits of a code-length symbol's repeat value (44_deflate_format.md R338). -/
def repeatWidth (c : Nat) : Nat := if c = 16 then 2 else if c = 17 then 3 else if c = 18 then 7 else 0

/-- The tables of a dynamic block (45_encoder.md R412). -/
structure DynTables where
  ll : List Nat
  dl : List Nat
  nlit : Nat
  ndist : Nat
  packed : List (Nat × Nat)
  cl : List Nat
  nclen : Nat
  deriving DecidableEq, Repr

/-- The tables of a block's records (45_encoder.md R412). -/
def dynTables (toks : List Token) : DynTables :=
  let ll := buildLengths (litFreqs toks) Config.maxLenLd
  let dl := buildLengths (distFreqs toks) Config.maxLenLd
  let nlit := trimmed ll 257 286
  let ndist := trimmed dl 1 30
  let packed := rlePack (ll.take nlit ++ dl.take ndist)
  let cl := buildLengths (packFreqs packed) Config.maxLenCl
  let nclen := max (trimmed (clOrder.map (fun c => cl.getD c 0)) 0 19) 4
  { ll := ll, dl := dl, nlit := nlit, ndist := ndist, packed := packed, cl := cl, nclen := nclen }

/-- The fields of an item of the packed sequence (45_encoder.md R413). -/
def packedFields (ct : CodeTable) (item : Nat × Nat) : List (Nat × Nat) :=
  if 16 ≤ item.1 then [ct.field item.1, (item.2, repeatWidth item.1)] else [ct.field item.1]

/-- The fields of a dynamic block's description (45_encoder.md R413). -/
def DynTables.fields (t : DynTables) : List (Nat × Nat) :=
  [(t.nlit - 257, 5), (t.ndist - 1, 5), (t.nclen - 4, 4)]
    ++ (clOrder.take t.nclen).map (fun c => (t.cl.getD c 0, 3))
    ++ t.packed.flatMap (packedFields (CodeTable.of t.cl))

/-! Block policy and formatting (45_encoder.md R406 to R411). -/

/-- The kinds of a block (44_deflate_format.md R331). -/
inductive BlockKind where
  | stored
  | static
  | dynamic
  deriving DecidableEq, Repr

/-- BTYPE (45_encoder.md R409). -/
def BlockKind.btype : BlockKind → Nat
  | .stored => 0
  | .static => 1
  | .dynamic => 2

/-- The 3-bit header of a block (45_encoder.md R409). -/
def headerFields (final : Bool) (kind : BlockKind) : List (Nat × Nat) := [(final.toNat, 1), (kind.btype, 2)]

/-- static_cost() (45_encoder.md R407). -/
def staticCost (toks : List Token) : Nat := 3 + bodyCost fixedLit fixedDist toks

/-- dynamic_cost() (45_encoder.md R408). -/
def dynamicCost (toks : List Token) : Nat :=
  let t := dynTables toks
  3 + 5 + 5 + 4 + 3 * t.nclen + (t.packed.map (fun item => t.cl.getD item.1 0 + repeatWidth item.1)).sum
    + bodyCost t.ll t.dl toks

/-- The kind a block's records and raw bytes give (45_encoder.md R406). -/
def blockKind (raw forceStatic : Bool) (toks : List Token) (blockRaw : Nat) : BlockKind :=
  if raw then .stored
  else if forceStatic || decide (blockRaw ≤ Config.staticMax) then
    if 0 < blockRaw ∧ 8 * blockRaw ≤ staticCost toks then .stored else .static
  else if 0 < blockRaw ∧ 8 * blockRaw ≤ dynamicCost toks then .stored else .dynamic

/-- A static block's fields (45_encoder.md R409, R411). -/
def staticFields (final : Bool) (toks : List Token) : List (Nat × Nat) :=
  headerFields final .static ++ bodyFields (CodeTable.of fixedLit) (CodeTable.of fixedDist) toks

/-- A dynamic block's fields (45_encoder.md R409, R411). -/
def dynamicFields (final : Bool) (toks : List Token) : List (Nat × Nat) :=
  let t := dynTables toks
  headerFields final .dynamic ++ t.fields ++ bodyFields (CodeTable.of t.ll) (CodeTable.of t.dl) toks

/-- Write a stored block of `r` raw bytes `bs` (45_encoder.md R410). -/
def putStored (o : BitSink) (final : Bool) (r : Nat) (bs : List Byte) : BitSink :=
  (o.puts (headerFields final .stored)).align.puts ([(r, 16), (r ^^^ 0xFFFF, 16)] ++ byteFields bs)

/-- The raw bytes of the current block (45_encoder.md R410). -/
def Enc.rawBytes (e : Enc) : List Byte := (e.input.drop e.blockStart).take e.blockRaw

/-- The kind of the current block (45_encoder.md R406). -/
def Enc.kind (e : Enc) : BlockKind := blockKind e.raw e.flags.forceStatic e.tokens e.blockRaw

/-- Write the current block (45_encoder.md R406, R410, R411). -/
def Enc.putBlock (e : Enc) (final : Bool) : BitSink :=
  match e.kind with
  | .stored => putStored e.out final e.blockRaw e.rawBytes
  | .static => e.out.puts (staticFields final e.tokens)
  | .dynamic => e.out.puts (dynamicFields final e.tokens)

/-- close_block(final) (45_encoder.md R404). -/
def Enc.closeBlock (e : Enc) (final : Bool) : Enc :=
  { e with out := e.putBlock final, blockStart := e.blockStart + e.blockRaw, tokens := [], blockRaw := 0 }

/-! The parse (45_encoder.md R400 to R403). -/

/-- The raw bytes a record covers (45_encoder.md R403). -/
def Token.covers : Token → Nat
  | .lit _ => 1
  | .copy len _ => len

/-- emit(t) (45_encoder.md R403). -/
def Enc.emit (e : Enc) (t : Token) : Enc :=
  let e := { e with tokens := e.tokens ++ [t], blockRaw := e.blockRaw + t.covers }
  if Config.blockRawMax ≤ e.blockRaw then e.closeBlock false else e

/-- search(P, maxlen): the match, and fasttab after it (45_encoder.md R401). -/
def Enc.search (e : Enc) (maxlen : Nat) : Match × List (Nat × Nat) :=
  if e.fast then fastSearch e.input e.base e.pos maxlen e.fasttab
  else (accept (find e.input e.base e.pos maxlen e.probes.toNat) true e.flags.filter, e.fasttab)

/-- A parse decision from a search's match `m`, with no match held (45_encoder.md R400). -/
def Enc.parseFresh (e : Enc) (m : Match) : Enc :=
  if m = Match.none then ({ e with pos := e.pos + 1 } : Enc).emit (.lit (e.input.getD e.pos 0#8))
  else if e.greedy || decide (Config.lazyNice ≤ m.len) then
    ({ e with pos := e.pos + m.len } : Enc).emit (.copy m.len m.dist)
  else { e with saved := some m, pos := e.pos + 1 }

/-- A parse decision from a search's match `m`, with the match `held` at the position before (45_encoder.md R400). -/
def Enc.parseHeld (e : Enc) (m held : Match) : Enc :=
  if held.len < m.len then
    ({ e with saved := some m, pos := e.pos + 1 } : Enc).emit (.lit (e.input.getD (e.pos - 1) 0#8))
  else ({ e with saved := none, pos := e.pos - 1 + held.len } : Enc).emit (.copy held.len held.dist)

/-- step(): one parse decision at enc.P (45_encoder.md R400). -/
def Enc.step (e : Enc) : Enc :=
  if e.raw then ({ e with pos := e.pos + 1 } : Enc).emit (.lit (e.input.getD e.pos 0#8))
  else
    let found := e.search (min Config.maxMatch (e.input.length - e.pos))
    let e := { e with fasttab := found.2 }
    match e.saved with
    | some held => e.parseHeld found.1 held
    | none => e.parseFresh found.1

/-- Steps while at least `ahead` bytes from enc.P are held. Each step passes at least one byte in every state a run reaches, so
as many steps as bytes suffice (45_encoder.md R391, R416; log 10). -/
def Enc.parse (ahead : Nat) : Nat → Enc → Enc
  | 0, e => e
  | k + 1, e => if e.pos + ahead ≤ e.input.length then Enc.parse ahead k e.step else e

/-- consume(b), but for its CRC tap (45_encoder.md R391). -/
def Enc.consume (e : Enc) (b : Byte) : Enc :=
  let e := { e with input := e.input ++ [b], adler := adlerUpdate e.adler [b] }
  e.parse Config.lookahead (e.input.length - e.pos)

/-! Flushes (45_encoder.md R416 to R420). -/

/-- marker() (45_encoder.md R418). -/
def BitSink.marker (o : BitSink) : BitSink := (o.put (0, 3)).align.puts [(0, 16), (0xFFFF, 16)]

/-- The end of the stream: the final block, the alignment and the zlib trailer (45_encoder.md R416, R420). -/
def Enc.finishStream (e : Enc) : Enc :=
  let e := e.closeBlock true
  { e with out := e.out.align.puts (if e.flags.zlib then byteFields (bytesBE32 e.adler.toNat) else []) }

/-- A block boundary: the records so far, then the marker (45_encoder.md R416, R418). -/
def Enc.boundary (e : Enc) : Enc :=
  let e := if e.tokens = [] then e else e.closeBlock false
  { e with out := e.out.marker }

/-- FULL_FLUSH's reset of the dictionary (45_encoder.md R419). -/
def Enc.resetDictionary (e : Enc) : Enc := { e with base := e.input.length, fasttab := [] }

/-- flush(f), f in 1 to 4 (45_encoder.md R371, R416). -/
def Enc.flush (e : Enc) (f : Nat) : Enc :=
  let e := e.parse 1 (e.input.length - e.pos)
  if f = 4 then e.finishStream
  else if f = 3 then e.boundary.resetDictionary
  else e.boundary

/-! ENC_INIT (45_encoder.md R372, R380). -/

/-- What a level fixes (45_encoder.md R372). -/
structure Level where
  raw : Bool
  fast : Bool
  greedy : Bool
  probes : Nat
  deriving DecidableEq, Repr

/-- The rows of the level table, level 0 first (45_encoder.md R372). -/
def levels : List Level :=
  [ { raw := true, fast := false, greedy := true, probes := 0 }
  , { raw := false, fast := true, greedy := true, probes := 1 }
  , { raw := false, fast := false, greedy := true, probes := 4 }
  , { raw := false, fast := false, greedy := true, probes := 8 }
  , { raw := false, fast := false, greedy := false, probes := 16 }
  , { raw := false, fast := false, greedy := false, probes := 32 }
  , { raw := false, fast := false, greedy := false, probes := 128 }
  , { raw := false, fast := false, greedy := false, probes := 256 }
  , { raw := false, fast := false, greedy := false, probes := 512 }
  , { raw := false, fast := false, greedy := false, probes := 1024 }
  , { raw := false, fast := false, greedy := false, probes := 4095 } ]

/-- The row of a level. -/
def levelOf (lv : Nat) : Level := levels.getD lv { raw := false, fast := false, greedy := false, probes := 0 }

/-- The encoder an ENC_INIT opens (45_encoder.md R380). -/
def Enc.opened (lv : Nat) (flags : EncFlags) (arg0 : Word) : Enc :=
  let row := levelOf lv
  { Enc.reset with
    phase := .ready
    level := BitVec.ofNat 4 lv
    flags := flags
    probes := if flags.probesOvr && decide (1 ≤ lv) then arg0.setWidth 12 else BitVec.ofNat 12 row.probes
    raw := row.raw
    greedy := row.greedy
    fast := row.fast && !flags.filter
    out := if flags.zlib then BitSink.reset.puts [(0x78, 8), (0x01, 8)] else BitSink.reset }

/-- enc.* <- e. -/
def State.setEnc (s : State) (e : Enc) : State := { s with enc := e }

/-- ENC_INIT (45_encoder.md R380). -/
def execEncInit (level : Nat) (zlib forceStatic filter crcTap probesOvr : Bool) (s : State) : Outcome :=
  runCmd (do
    let flags : EncFlags :=
      { zlib := zlib, forceStatic := forceStatic, filter := filter, crcTap := crcTap, probesOvr := probesOvr }
    deny (decide (10 < level)) .badLevel level
    modify (State.setEnc · (Enc.opened level flags s.args.a0))
    finish .ok 0 0) s

/-! ENC_RUN (45_encoder.md R390 to R397). -/

/-- enc.state <- p. -/
def State.setEncPhase (s : State) (p : EncPhase) : State := { s with enc := { s.enc with phase := p } }

/-- enc.state <- p, in a run. -/
def encPhase (p : EncPhase) : RunM Unit := modify (fun r => { r with s := r.s.setEncPhase p })

/-- enc.fifo is not empty. -/
def encPending : RunM Bool := do return (← get).s.enc.out.fifo != []

/-- done(HAS_MORE_OUTPUT) if enc.fifo is not empty (45_encoder.md R390, R392). -/
def encStopIfPending : RunM Unit := do
  let pending ← encPending
  doneIf pending .hasMoreOutput

/-- Remove the head of enc.fifo and count it as written. -/
def encShift (rest : List Byte) : RunM Unit :=
  modify (fun r =>
    { r with s := { r.s with enc := { r.s.enc with out := { r.s.enc.out with fifo := rest } } }, w := r.w + 1 })

/-- drain(), over at most `k` bytes of the FIFO (45_encoder.md R390). -/
def encDrainUpTo (o m : Nat) : Nat → RunM Unit
  | 0 => pure ()
  | k + 1 => do
      let r ← get
      match r.s.enc.out.fifo with
      | [] => pure ()
      | b :: rest =>
          if r.w < m then
            busWrite (o + r.w) b
            encShift rest
            encDrainUpTo o m k
          else pure ()

/-- drain() (45_encoder.md R390). -/
def encDrain (o m : Nat) : RunM Unit := do
  let r ← get
  encDrainUpTo o m r.s.enc.out.fifo.length

/-- consume(b) with its CRC tap (45_encoder.md R391). -/
def State.encConsume (s : State) (b : Byte) : State :=
  { s with enc := s.enc.consume b, crcAcc := if s.enc.flags.crcTap then crcUpdate s.crcAcc [b] else s.crcAcc }

/-- The `while c < n` loop of ENC_RUN, `k` bytes being left (45_encoder.md R390, R392). -/
def encFeed (i o m : Nat) : Nat → RunM Unit
  | 0 => pure ()
  | k + 1 => do
      encStopIfPending
      let r ← get
      let b ← busRead (i + r.c)
      modify (fun r => { r with s := r.s.encConsume b, c := r.c + 1 })
      encDrain o m
      encFeed i o m k

/-- ENC_RUN from its `while c < n` loop on (45_encoder.md R390). -/
def encAccept (i n o m f : Nat) : RunM Code := do
  encFeed i o m n
  encStopIfPending
  doneIf (f == 0) .ok
  modify (fun r => { r with s := r.s.setEnc (r.s.enc.flush f) })
  encDrain o m
  let pending ← encPending
  if f = 4 then
    if pending then
      encPhase .finishing
      return .hasMoreOutput
    else
      encPhase .finished
      return .done
  else
    if pending then
      encPhase .drain
      return .hasMoreOutput
    else return .ok

/-- ENC_RUN after its checks (45_encoder.md R390, R393, R394). -/
def encBody (i n o m f : Nat) : RunM Code := do
  encDrain o m
  encStopIfPending
  let r ← get
  match r.s.enc.phase with
  | .finishing =>
      encPhase .finished
      return .done
  | .finished => return .done
  | .drain =>
      encPhase .ready
      if n = 0 ∧ f ≠ 4 then return .ok else encAccept i n o m f
  | .idle | .ready | .failed => encAccept i n o m f

/-- The totals advanced by the run's counts (45_encoder.md R390). -/
def Run.encTally (r : Run) : State :=
  { r.s with
    enc := { r.s.enc with
      totalIn := r.s.enc.totalIn + BitVec.ofNat 32 r.c
      totalOut := r.s.enc.totalOut + BitVec.ofNat 32 r.w } }

/-- The end of ENC_RUN: done(code), or a bus error, which fails the stream (45_encoder.md R390, R397). -/
def encEnd (res : EStateM.Result Stop Run Code) : EStateM.Result Raise State Finish :=
  match res with
  | .ok code r => .ok (r.finished code) r.encTally
  | .error (.done code) r => .ok (r.finished code) r.encTally
  | .error (.error c info) r => .error (r.raised c info) (r.encTally.setEncPhase .failed)

/-- Fail the stream and raise (45_encoder.md R395, R396). -/
def encReject (bad : Bool) (c : Cause) (info : Nat) : Cmd Unit :=
  if bad then do
    modify (State.setEncPhase · .failed)
    c.raise info
  else pure ()

/-- ENC_RUN (45_encoder.md R390). -/
def execEncRun (flush : Nat) (s : State) : Outcome :=
  runCmd (do
    let i := s.args.a0.toNat
    let n := s.args.a1.toNat
    let o := s.args.a2.toNat
    let m := s.args.a3.toNat
    deny (s.enc.phase == .idle) .noStream 0
    deny (s.enc.phase == .failed) .streamFailed 0
    encReject (decide (4 < flush)) .badFlush flush
    encReject ((s.enc.phase == .finishing || s.enc.phase == .finished) && (flush != 4 || decide (0 < n))) .finishThenInput n
    checkRange i n
    checkRange o m
    checkOverlap [(i, n)] (o, m)
    (fun t => encEnd (encBody i n o m flush { s := t, c := 0, w := 0 }))) s

end Sys2Proof.Machine
end

