-- ==== Sys2Proof/Machine/Zip.lean ====
section
/-! DEFINITION. The ZIP record unit: the record layouts and the nine ZIP_* commands (47_zip_records.md). -/

namespace Sys2Proof.Machine

/-- The signature of a local file header (47_zip_records.md R511). -/
def sigLocal : Nat := 0x04034B50

/-- The signature of a central-directory record (47_zip_records.md R511). -/
def sigCentral : Nat := 0x02014B50

/-- The signature of an end-of-central-directory record (47_zip_records.md R511). -/
def sigEnd : Nat := 0x06054B50

/-- The methods the block knows (47_zip_records.md R513). -/
def knownMethod (m : Half) : Bool := m == 0#16 || m == 8#16

/-- lh_bytes(n, k) of the ZF_* registers, n and k being ZF_NAMELEN and ZF_EXTRALEN (47_zip_records.md R511, R515). -/
def ZipEntry.localBytes (z : ZipEntry) : List Byte :=
  bytes32 sigLocal ++ bytes16 z.verNeed.toNat ++ bytes16 z.flags.toNat ++ bytes16 z.method.toNat ++ bytes16 z.time.toNat
    ++ bytes16 z.date.toNat ++ bytes32 z.crc.toNat ++ bytes32 z.csize.toNat ++ bytes32 z.usize.toNat
    ++ bytes16 z.nameLen.toNat ++ bytes16 z.extraLen.toNat

/-- cd_bytes(n, k, c) of the ZF_* registers, 0 in the disk-number-start field (47_zip_records.md R511, R515, R518). -/
def ZipEntry.centralBytes (z : ZipEntry) : List Byte :=
  bytes32 sigCentral ++ bytes16 z.verMade.toNat ++ bytes16 z.verNeed.toNat ++ bytes16 z.flags.toNat
    ++ bytes16 z.method.toNat ++ bytes16 z.time.toNat ++ bytes16 z.date.toNat ++ bytes32 z.crc.toNat
    ++ bytes32 z.csize.toNat ++ bytes32 z.usize.toNat ++ bytes16 z.nameLen.toNat ++ bytes16 z.extraLen.toNat
    ++ bytes16 z.commentLen.toNat ++ bytes16 0 ++ bytes16 z.intAttr.toNat ++ bytes32 z.extAttr.toNat
    ++ bytes32 z.lhOfs.toNat

/-- eocd_bytes(c) of the ZE_* registers, 0 in both disk fields and ZE_NENT in both counts (47_zip_records.md R511, R515, R522). -/
def ZipEnd.endBytes (z : ZipEnd) : List Byte :=
  bytes32 sigEnd ++ bytes16 0 ++ bytes16 0 ++ bytes16 z.nent.toNat ++ bytes16 z.nent.toNat ++ bytes32 z.cdSize.toNat
    ++ bytes32 z.cdOfs.toNat ++ bytes16 z.commentLen.toNat

/-- fold(b): ASCII A to Z in lower case (47_zip_records.md R515). -/
def foldCase (b : Byte) : Byte := if 0x41 ≤ b.toNat ∧ b.toNat ≤ 0x5A then b + 0x20#8 else b

/-! Writer commands. -/

/-- The raise of the lowest index that holds a backslash or a colon, if one does (47_zip_records.md R512). -/
def checkNameFrom : Nat → List Byte → Cmd Unit
  | _, [] => pure ()
  | i, b :: bs =>
      if b = 0x5C#8 then Cause.raise .backslash i
      else if b = 0x3A#8 then Cause.raise .colon i
      else checkNameFrom (i + 1) bs

/-- ZIP_NAME_CHECK (47_zip_records.md R512). -/
def execZipNameCheck (s : State) : Outcome :=
  runCmd (do
    let a := s.args.a0.toNat
    let n := s.args.a1.toNat
    deny (decide (0xFFFF < n)) .lenRange n
    checkRange a n
    let name ← memRead a n
    deny (name.head? == some 0x2F#8) .leadingSlash 0
    checkNameFrom 0 name
    finish .ok n 0) s

/-- The zero bytes ZIP_LH_WRITE puts before the header, `align` being a power of two or 0 (47_zip_records.md R514). -/
def padding (align off : Nat) : Nat := if align ≤ 1 then 0 else (align - off % align) % align

/-- ZF_LHOFS <- v. -/
def State.setLhOfs (s : State) (v : Word) : State := { s with zf := { s.zf with lhOfs := v } }

/-- ZIP_LH_WRITE (47_zip_records.md R514). -/
def execZipLhWrite (align : Nat) (s : State) : Outcome :=
  runCmd (do
    let d := s.args.a0.toNat
    let na := s.args.a1.toNat
    let ea := s.args.a2.toNat
    let off := s.args.a3.toNat
    let n := s.zf.nameLen.toNat
    let k := s.zf.extraLen.toNat
    deny (decide (1 < align) && (align &&& (align - 1)) != 0) .badAlign align
    deny (!knownMethod s.zf.method) .badMethod s.zf.method.toNat
    let pad := padding align off
    let total := pad + 30 + n + k
    checkRange na n
    checkRange ea k
    checkRange d total
    checkOverlap [(na, n), (ea, k)] (d, total)
    deny (decide (Config.archMax ≤ off + pad) || s.zf.csize.toNat == Config.archMax || s.zf.usize.toNat == Config.archMax)
      .zip64 off
    let name ← memRead na n
    let extra ← memRead ea k
    memWrite d (List.replicate pad 0#8 ++ s.zf.localBytes ++ name ++ extra)
    modify (State.setLhOfs · (BitVec.ofNat 32 (off + pad)))
    finish .ok pad total) s

/-- ZIP_CD_WRITE (47_zip_records.md R518). -/
def execZipCdWrite (s : State) : Outcome :=
  runCmd (do
    let d := s.args.a0.toNat
    let na := s.args.a1.toNat
    let ea := s.args.a2.toNat
    let ca := s.args.a3.toNat
    let n := s.zf.nameLen.toNat
    let k := s.zf.extraLen.toNat
    let c := s.zf.commentLen.toNat
    deny (!knownMethod s.zf.method) .badMethod s.zf.method.toNat
    let total := 46 + n + k + c
    checkRange na n
    checkRange ea k
    checkRange ca c
    checkRange d total
    checkOverlap [(na, n), (ea, k), (ca, c)] (d, total)
    deny (s.zf.csize.toNat == Config.archMax || s.zf.usize.toNat == Config.archMax || s.zf.lhOfs.toNat == Config.archMax)
      .zip64 s.zf.lhOfs.toNat
    let name ← memRead na n
    let extra ← memRead ea k
    let comment ← memRead ca c
    memWrite d (s.zf.centralBytes ++ name ++ extra ++ comment)
    finish .ok 0 total) s

/-- ZIP_EOCD_WRITE (47_zip_records.md R522). -/
def execZipEocdWrite (s : State) : Outcome :=
  runCmd (do
    let d := s.args.a0.toNat
    let ca := s.args.a1.toNat
    let c := s.ze.commentLen.toNat
    let total := 22 + c
    checkRange ca c
    checkRange d total
    checkOverlap [(ca, c)] (d, total)
    deny (decide (0xFFFF ≤ s.ze.nent.toNat)) .zip64 s.ze.nent.toNat
    deny (s.ze.cdSize.toNat == Config.archMax || s.ze.cdOfs.toNat == Config.archMax) .zip64 s.ze.cdOfs.toNat
    let comment ← memRead ca c
    memWrite d (s.ze.endBytes ++ comment)
    finish .ok 0 total) s

/-! Reader commands. -/

/-- The search's walk: the highest of the `k` offsets from `q` on that holds the EOCD signature, `w` being the bytes from `q`
on; `best` is the highest found before (47_zip_records.md R526: the highest signature wins). -/
def eocdWalk : Nat → Nat → List Byte → Option (Nat × List Byte) → Option (Nat × List Byte)
  | 0, _, _, best => best
  | k + 1, q, w, best => eocdWalk k (q + 1) w.tail (if le32 w 0 = sigEnd then some (q, w) else best)

/-- The ZE_* registers of an EOCD record at archive offset `p` (47_zip_records.md R511, R526). -/
def zipEndOf (b : List Byte) (p : Nat) : ZipEnd :=
  { disk := BitVec.ofNat 16 (le16 b 4), cdDisk := BitVec.ofNat 16 (le16 b 6), nentDisk := BitVec.ofNat 16 (le16 b 8)
    nent := BitVec.ofNat 32 (le16 b 10), cdSize := BitVec.ofNat 32 (le32 b 12), cdOfs := BitVec.ofNat 32 (le32 b 16)
    commentLen := BitVec.ofNat 16 (le16 b 20), ofs := BitVec.ofNat 32 p }

/-- The checks and the load of ZIP_EOCD_FIND for the record found, `b` being the archive's bytes from offset `p` on
(47_zip_records.md R526). -/
def takeEocd (p sz : Nat) (b : List Byte) : Cmd Finish := do
  deny (decide (sz < p + 22 + le16 b 20)) .badEocd p
  deny (le16 b 4 != 0 || le16 b 6 != 0 || le16 b 8 != le16 b 10) .multiDisk p
  deny (le16 b 10 == 0xFFFF || le32 b 12 == Config.archMax || le32 b 16 == Config.archMax) .zip64 p
  deny (decide (le32 b 12 < 46 * le16 b 10)) .cdRange p
  deny (decide (p < le32 b 16 + le32 b 12)) .cdRange p
  modify (fun s => { s with ze := zipEndOf b p })
  finish .ok p (le16 b 10)

/-- ZIP_EOCD_FIND (47_zip_records.md R526). -/
def execZipEocdFind (s : State) : Outcome :=
  runCmd (do
    let t := s.args.a0.toNat
    let len := s.args.a1.toNat
    let sz := s.args.a2.toNat
    deny (decide (sz < len)) .lenRange len
    checkRange t len
    deny (decide (len < 22)) .noEocd 0
    let lo := max (sz - len) (sz - Config.eocdSearch)
    let w ← memRead (t + (lo - (sz - len))) (sz - lo)
    match eocdWalk (sz - 22 - lo + 1) lo w none with
    | none => Cause.raise .noEocd 0
    | some (p, b) => takeEocd p sz b) s

/-- The ZF_* registers of a central-directory record (47_zip_records.md R511, R530). -/
def zipEntryOf (h : List Byte) : ZipEntry :=
  { verMade := BitVec.ofNat 16 (le16 h 4), verNeed := BitVec.ofNat 16 (le16 h 6), flags := BitVec.ofNat 16 (le16 h 8)
    method := BitVec.ofNat 16 (le16 h 10), time := BitVec.ofNat 16 (le16 h 12), date := BitVec.ofNat 16 (le16 h 14)
    crc := BitVec.ofNat 32 (le32 h 16), csize := BitVec.ofNat 32 (le32 h 20), usize := BitVec.ofNat 32 (le32 h 24)
    nameLen := BitVec.ofNat 16 (le16 h 28), extraLen := BitVec.ofNat 16 (le16 h 30)
    commentLen := BitVec.ofNat 16 (le16 h 32), diskStart := BitVec.ofNat 16 (le16 h 34)
    intAttr := BitVec.ofNat 16 (le16 h 36), extAttr := BitVec.ofNat 32 (le32 h 38), lhOfs := BitVec.ofNat 32 (le32 h 42) }

/-- The length of a central-directory record (47_zip_records.md R511, R530). -/
def centralLength (h : List Byte) : Nat := 46 + le16 h 28 + le16 h 30 + le16 h 32

/-- The checks and the load of ZIP_CD_PARSE for a record of 46 bytes `h` (47_zip_records.md R530). -/
def takeCentral (r av sz : Nat) (h : List Byte) : Cmd Finish := do
  deny (le32 h 0 != sigCentral) .badSigCd r
  deny (decide (av < centralLength h)) .truncated r
  deny (le16 h 34 != 0) .multiDisk r
  deny ((le16 h 8).testBit 0 || (le16 h 8).testBit 6) .encrypted r
  deny ((le16 h 8).testBit 5) .patch r
  deny (le32 h 20 == Config.archMax || le32 h 24 == Config.archMax || le32 h 42 == Config.archMax) .zip64 r
  deny (le16 h 10 == 0 && le32 h 24 != le32 h 20) .storedSize r
  deny (le32 h 24 != 0 && le32 h 20 == 0) .zeroCsize r
  deny (decide (sz < le32 h 42 + 30 + le32 h 20)) .outOfRange r
  modify (fun s => { s with zf := zipEntryOf h })
  finish .ok (centralLength h) (r + 46)

/-- ZIP_CD_PARSE (47_zip_records.md R530). -/
def execZipCdParse (s : State) : Outcome :=
  runCmd (do
    let r := s.args.a0.toNat
    let av := s.args.a1.toNat
    checkRange r av
    deny (decide (av < 46)) .truncated r
    let h ← memRead r 46
    takeCentral r av s.args.a2.toNat h) s

/-- The length of a local header with its name and extra field (47_zip_records.md R511, R540). -/
def localLength (b : List Byte) : Nat := 30 + le16 b 26 + le16 b 28

/-- ZIP_LH_CHECK (47_zip_records.md R540). -/
def execZipLhCheck (s : State) : Outcome :=
  runCmd (do
    let h := s.args.a0.toNat
    let av := s.args.a1.toNat
    let sz := s.args.a2.toNat
    let cn := s.args.a3.toNat
    let n := s.zf.nameLen.toNat
    checkRange h av
    checkRange cn n
    deny (decide (av < 30)) .truncated h
    let b ← memRead h 30
    deny (le32 b 0 != sigLocal) .badSigLh h
    deny (decide (av < 30 + le16 b 26)) .truncated h
    deny (le16 b 8 != s.zf.method.toNat || le16 b 26 != n) .lhMismatch h
    let name ← memRead (h + 30) n
    let listed ← memRead cn n
    deny (name != listed) .lhMismatch h
    deny (!s.zf.flags.getLsbD 3 &&
        (le32 b 14 != s.zf.crc.toNat || le32 b 18 != s.zf.csize.toNat || le32 b 22 != s.zf.usize.toNat))
      .lhMismatch h
    deny (!knownMethod s.zf.method) .method s.zf.method.toNat
    deny (decide (sz < s.zf.lhOfs.toNat + localLength b + s.zf.csize.toNat)) .outOfRange h
    finish .ok (s.zf.lhOfs.toNat + localLength b) (localLength b)) s

/-- The order of two names: none equal, some true below, some false above; a proper prefix is below (47_zip_records.md R546). -/
def nameOrder : List Byte → List Byte → Option Bool
  | [], [] => none
  | [], _ :: _ => some true
  | _ :: _, [] => some false
  | a :: as, b :: bs => if a = b then nameOrder as bs else some (decide (a.toNat < b.toNat))

/-- RESULT1 of ZIP_NAME_CMP (47_zip_records.md R546). -/
def orderWord (o : Option Bool) : Nat :=
  match o with
  | none => 0
  | some true => 0xFFFFFFFF
  | some false => 1

/-- The bytes of a name as ZIP_NAME_CMP compares them (47_zip_records.md R546). -/
def comparedName (caseSensitive : Bool) (name : List Byte) : List Byte := if caseSensitive then name else name.map foldCase

/-- ZIP_NAME_CMP (47_zip_records.md R546). -/
def execZipNameCmp (caseSensitive : Bool) (s : State) : Outcome :=
  runCmd (do
    let a := s.args.a0.toNat
    let na := s.args.a1.toNat
    let b := s.args.a2.toNat
    let nb := s.args.a3.toNat
    deny (decide (0xFFFF < na)) .lenRange na
    deny (decide (0xFFFF < nb)) .lenRange nb
    checkRange a na
    checkRange b nb
    let sa ← memRead a na
    let sb ← memRead b nb
    let o := nameOrder (comparedName caseSensitive sa) (comparedName caseSensitive sb)
    finish .ok o.isSome.toNat (orderWord o)) s

/-- ZIP_VERIFY (47_zip_records.md R550). -/
def execZipVerify (s : State) : Outcome :=
  runCmd (do
    deny (s.args.a0 != s.zf.usize) .size s.args.a0.toNat
    deny (s.crcAcc != s.zf.crc) .crc s.crcAcc.toNat
    finish .ok 0 0) s

end Sys2Proof.Machine
end

