-- ==== Sys2Proof/Machine/Dispatch.lean ====
section
/-! DEFINITION. The meaning of every command, one arm per constructor (40_control.md R214: the pseudocode of the command's rule). -/

namespace Sys2Proof.Machine

/-- Perform a decoded command: its pseudocode and its completion, one atomic step (00_scope.md R25). -/
def exec (i : Instr) (s : State) : Host.Outcome State Fault Refusal :=
  match i with
  | .nop => Sys2Proof.Machine.execNop s
  | .reset => Sys2Proof.Machine.execReset s
  | .crcInit => Sys2Proof.Machine.execCrcInit s
  | .crcUpdate => Sys2Proof.Machine.execCrcUpdate s
  | .crcByte b => Sys2Proof.Machine.execCrcByte b s
  | .adlerInit => Sys2Proof.Machine.execAdlerInit s
  | .adlerUpdate => Sys2Proof.Machine.execAdlerUpdate s
  | .adlerByte b => Sys2Proof.Machine.execAdlerByte b s
  | .hufLengths maxlen => Sys2Proof.Machine.execHufLengths maxlen s
  | .hufCodes reverse => Sys2Proof.Machine.execHufCodes reverse s
  | .hufDtable slot => Sys2Proof.Machine.execHufDtable slot s
  | .hufDecode slot => Sys2Proof.Machine.execHufDecode slot s
  | .hufPeek slot tree index => Sys2Proof.Machine.execHufPeek slot tree index s
  | .lzFind reject filter probes => Sys2Proof.Machine.execLzFind reject filter probes s
  | .lzHash fast => Sys2Proof.Machine.execLzHash fast s
  | .encInit level zlib forceStatic filter crcTap probesOvr => Sys2Proof.Machine.execEncInit level zlib forceStatic filter crcTap probesOvr s
  | .encRun flush => Sys2Proof.Machine.execEncRun flush s
  | .decInit zlib omode crcTap => Sys2Proof.Machine.execDecInit zlib omode crcTap s
  | .decRun => Sys2Proof.Machine.execDecRun s
  | .zipNameCheck => Sys2Proof.Machine.execZipNameCheck s
  | .zipLhWrite align => Sys2Proof.Machine.execZipLhWrite align s
  | .zipCdWrite => Sys2Proof.Machine.execZipCdWrite s
  | .zipEocdWrite => Sys2Proof.Machine.execZipEocdWrite s
  | .zipEocdFind => Sys2Proof.Machine.execZipEocdFind s
  | .zipCdParse => Sys2Proof.Machine.execZipCdParse s
  | .zipLhCheck => Sys2Proof.Machine.execZipLhCheck s
  | .zipNameCmp caseSensitive => Sys2Proof.Machine.execZipNameCmp caseSensitive s
  | .zipVerify => Sys2Proof.Machine.execZipVerify s

end Sys2Proof.Machine
end

