-- ==== Sys2Proof/Machine/Step.lean ====
section
/-! DEFINITION. One step of the machine: the next agent's turn (00_scope.md R24, R25; 20_memory.md R160; 40_control.md R214). -/

namespace Sys2Proof.Machine

/-- The block's turn: a launched command is decoded and performed as one step (40_control.md R214); an idle block waits for
the next write to CMD (70_reset_and_hazards.md R613). -/
def blockTurn (s : State) : Outcome :=
  if s.status.busy then
    match decode s.fetchWord with
    | .ok i => exec i s
    | .error e => .next (s.illegal e)
  else .next s

/-- One step: the first pending action of the host or the platform, or the block's turn where the queue places it, or, with
nothing pending, the block's turn (20_memory.md R160; log 3). -/
def step (s : State) : Host.Outcome State Fault Refusal :=
  match s.hostq with
  | [] => blockTurn s
  | .block :: rest => blockTurn { s with hostq := rest }
  | ev :: rest => .next (State.hostAct { s with hostq := rest } ev)

/-- The state in which the host has just launched the command word of `nbits` bits, with nothing else pending, so that the next
step performs it (log 6). -/
def State.withFetchWord (s : State) (nbits w : Nat) : State := s.launchNow (tableWord nbits w)

end Sys2Proof.Machine
end

