-- ==== Sys2Proof/Safety.lean ====
section
/-! DEFINITION. What the statements call a safe step, one that ends in a next state (60_exceptions.md R580: every command
completes; the block has no other stop), and the invariant of the machine that every step keeps. -/

namespace Sys2Proof.Machine

/-- An outcome that is a next state, neither a fault nor a refusal. -/
def isNext (o : Outcome) : Bool :=
  match o with
  | .next _ => true
  | .fault _ => false
  | .refused _ => false

/-- A safe state: the machine's next step ends in a next state. -/
def Safe (s : State) : Prop := isNext (step s) = true

/-- A slot has the shape 10_state.md R71 gives it: at most 288 symbols of lengths 0 to 15, 1024 fast entries, 576 child slots. -/
def Slot.shaped (sl : Slot) : Bool :=
  decide (sl.n ≤ 288) && sl.len.length == 288 && sl.len.all (fun l => decide (l ≤ 15)) && decide (sl.used ≤ 288)
    && sl.fast.length == 1024 && sl.tree.length == 576

/-- The failure record agrees with the decoder's state: a code and a cause in FAILED, zeros in every other state
(10_state.md R58; 46_decoder.md R446). -/
def Dec.recorded (d : Dec) : Bool :=
  if d.phase = .failed then (d.fcode == 0x14#8 || d.fcode == 0x21#8) && d.fcause != 0#8
  else d.fcode == 0#8 && d.fcause == 0#8 && d.finfo == 0#32

/-- The completion record agrees with STATUS.CODE: no cause and no detail without an error, a cause with one
(10_state.md R47, R48; 60_exceptions.md R570, R572). -/
def State.recorded (s : State) : Bool :=
  (Code.all.map Code.toByte).contains s.status.code &&
    (if isError s.status.code then s.errCause != 0#8 else s.errCause == 0#8 && s.errInfo == 0#32)

/-- The invariant: what every state that a run reaches has, and every step keeps. -/
structure Inv (s : State) : Prop where
  /-- Host memory is in its canonical form. -/
  mem : s.mem.wf = true
  /-- DDICT lists each of its bytes once, by rising index (10_state.md R95). -/
  ddict : rising s.ddict = true ∧ ∀ c ∈ s.ddict, c.1 < 32768
  /-- BUSY and CMPL are never both 1 (10_state.md R43, R44). -/
  flags : ¬(s.status.busy = true ∧ s.status.cmpl = true)
  /-- The completion record is a legal one. -/
  record : s.recorded = true
  /-- The four slots have their shape. -/
  slots : ∀ k : Fin 4, (s.slots.get k).shaped = true
  /-- Between formatting steps the encoder's BitBuffer holds 0 to 7 bits (10_state.md R84). -/
  bits : s.enc.out.nbits < 8
  /-- ENC_STATE.LEVEL is 0 to 10 (10_state.md R54). -/
  level : s.enc.level.toNat ≤ 10
  /-- The fast-path table has one slot for each hash of 12 bits (43_lz77.md R310). -/
  fasttab : rising s.enc.fasttab = true ∧ ∀ c ∈ s.enc.fasttab, c.1 < 4096
  /-- The decoder's failure record agrees with its state. -/
  failure : s.dec.recorded = true
  /-- DEC_HIST is at most 32768 (10_state.md R64). -/
  hist : s.dec.hist ≤ 32768
  /-- In STREAM mode DEC_OPOS is an index of DDICT (10_state.md R62). -/
  opos : s.dec.omode = .stream → s.dec.opos < 32768
  /-- The counts of a dynamic block fit their fields, and the lengths read so far fit the counts (46_decoder.md R462, R466). -/
  counts : s.dec.hlit ≤ 288 ∧ s.dec.hdist ≤ 32 ∧ s.dec.clen.length = 19 ∧
    (s.dec.phase = .dynLens → s.dec.lens.length ≤ s.dec.hlit + s.dec.hdist)

end Sys2Proof.Machine
end

