-- ==== Sys2Proof/Certificates/Slice0/Obligations.lean ====
section
/-! DEFINITION. The statements for the provers, each formalising rules of spec/. What they are written in (completion records,
readable and writable ranges, stored bytes, record layouts, tables) stands first, in their own words and not the model's. -/

namespace Sys2Proof.Claims

open Sys2Proof.Machine

/-! Completions (60_exceptions.md R580, R581). -/

/-- The state a completion leaves: the completion record is written, BUSY falls, CMPL rises, and nothing else changes. -/
def failedWith (s : State) (code cause : Byte) (info r0 r1 : Word) : State :=
  { s with
    status := { code := code, busy := false, cmpl := true, ovr := s.status.ovr, lastOpc := s.cmd.setWidth 8 }
    errCause := cause
    errInfo := info
    result0 := r0
    result1 := r1 }

/-- A completion without an error: ERR_CAUSE and ERR_INFO are 0. -/
def completed (s : State) (code : Byte) (r0 r1 : Word) : State := failedWith s code 0#8 0#32 r0 r1

/-- A completion with an error whose results are 0. -/
def raised (s : State) (code cause : Byte) (info : Word) : State := failedWith s code cause info 0#32 0#32

/-! Host memory (20_memory.md R143 to R148). -/

/-- A range that passes its checks and that the platform lets the block read. -/
def Readable (s : State) (a n : Nat) : Prop :=
  (0 < n → a ≠ 0) ∧ a + n ≤ 2 ^ 32 ∧ ∀ k < n, s.memOk (a + k) .read = true

/-- A range that passes its checks and that the platform lets the block write. -/
def Writable (s : State) (a n : Nat) : Prop :=
  (0 < n → a ≠ 0) ∧ a + n ≤ 2 ^ 32 ∧ ∀ k < n, s.memOk (a + k) .write = true

/-- Two ranges that do not overlap. -/
def Apart (a n b m : Nat) : Prop := n = 0 ∨ m = 0 ∨ a + n ≤ b ∨ b + m ≤ a

/-- The bytes of a range. -/
def bytesAt (s : State) (a n : Nat) : List Byte := (List.range n).map (fun k => s.mem.read (a + k))

/-- From `s` to `t` the bytes `bs` were stored at `a`, and no other byte of host memory changed. -/
def Stored (s t : State) (a : Nat) (bs : List Byte) : Prop :=
  (∀ k, ∀ b, bs[k]? = some b → t.mem.read (a + k) = b) ∧
    ∀ x, x < a ∨ a + bs.length ≤ x → t.mem.read x = s.mem.read x

/-- A 16-bit little-endian value of host memory. -/
def half (s : State) (a : Nat) : Nat := (s.mem.read a).toNat + 2 ^ 8 * (s.mem.read (a + 1)).toNat

/-- A 32-bit little-endian value of host memory. -/
def full (s : State) (a : Nat) : Nat := half s a + 2 ^ 16 * half s (a + 2)

/-- A record as the list of its fields, each a size in bytes and a value, stored little-endian (20_memory.md R149). -/
def layout (fields : List (Nat × Nat)) : List Byte :=
  fields.flatMap (fun f => (List.range f.1).map (fun j => BitVec.ofNat 8 (f.2 / 2 ^ (8 * j))))

/-! Encoding (30_encoding.md). -/

/-- The rows of 30_encoding.md R184: opcode and mask. A row's match is its opcode, with every other bit 0. -/
def rows : List (Nat × Word) :=
  [ (0x00, 0xFFFFFFFF#32), (0x01, 0xFFFFFFFF#32), (0x10, 0xFFFFFFFF#32), (0x11, 0xFFFFFFFF#32), (0x12, 0xFFFF00FF#32)
  , (0x14, 0xFFFFFFFF#32), (0x15, 0xFFFFFFFF#32), (0x16, 0xFFFF00FF#32), (0x20, 0xFFF0FFFF#32), (0x21, 0xFFFFFEFF#32)
  , (0x22, 0xFFFFFCFF#32), (0x23, 0xFFFFFCFF#32), (0x24, 0x0000F8FF#32), (0x30, 0x0000FCFF#32), (0x31, 0xFFFFFEFF#32) ]
  ++
  [ (0x40, 0xFFE000FF#32), (0x41, 0xFFFFF8FF#32), (0x50, 0xFFFFF0FF#32), (0x51, 0xFFFFFFFF#32), (0x60, 0xFFFFFFFF#32)
  , (0x61, 0x0000FFFF#32), (0x62, 0xFFFFFFFF#32), (0x63, 0xFFFFFFFF#32), (0x64, 0xFFFFFFFF#32), (0x65, 0xFFFFFFFF#32)
  , (0x66, 0xFFFFFFFF#32), (0x67, 0xFFFFFEFF#32), (0x68, 0xFFFFFFFF#32) ]

/-- The reserved opcodes of 30_encoding.md R186, range by range. -/
def reservedOpcode (n : Nat) : Prop :=
  (0x02 ≤ n ∧ n ≤ 0x0F) ∨ n = 0x13 ∨ (0x17 ≤ n ∧ n ≤ 0x1F) ∨ (0x25 ≤ n ∧ n ≤ 0x2F) ∨ (0x32 ≤ n ∧ n ≤ 0x3F) ∨
    (0x42 ≤ n ∧ n ≤ 0x4F) ∨ (0x52 ≤ n ∧ n ≤ 0x5F) ∨ (0x69 ≤ n ∧ n ≤ 0xFF)

/-- The block moves next: nothing is pending, or the queue places the block's turn first. -/
def blockNext (s : State) : Prop := s.hostq = [] ∨ s.hostq.head? = some .block

/-- The state with the block's turn taken from the queue. -/
def turnTaken (s : State) : State := { s with hostq := s.hostq.tail }

/-! Registers (10_state.md R41). -/

/-- A word access to the register at an offset. -/
def atRegister (s : State) (addr size off : Nat) : Prop :=
  size = 4 ∧ addr = s.plat.mmioBase + off ∧ off % 4 = 0 ∧ off < 256

/-- The 32-bit RW registers: ARG0 to ARG7, CRC_ACC, ADLER_ACC, and the 32-bit registers of R65 and R67. -/
def fullRegisters : List Nat :=
  [0x020, 0x024, 0x028, 0x02C, 0x030, 0x034, 0x038, 0x03C, 0x040, 0x044, 0x098, 0x09C, 0x0A0, 0x0B8, 0x0BC, 0x0CC, 0x0D0
  , 0x0D4, 0x0DC]

/-- The 16-bit RW registers of R65 and R67. -/
def halfRegisters : List Nat :=
  [0x080, 0x084, 0x088, 0x08C, 0x090, 0x094, 0x0A4, 0x0A8, 0x0AC, 0x0B0, 0x0B4, 0x0C0, 0x0C4, 0x0C8, 0x0D8]

/-- The RO registers and the reserved offsets. -/
def readOnlyRegisters : List Nat :=
  [0x000, 0x010, 0x014, 0x018, 0x01C, 0x048, 0x04C, 0x050, 0x054, 0x058, 0x05C, 0x060, 0x064, 0x068, 0x06C, 0x070, 0x074
  , 0x078, 0x07C, 0x0E0, 0x0E4, 0x0E8, 0x0EC, 0x0F0, 0x0F4, 0x0F8, 0x0FC]

/-- The registers that do not read 0 after reset, with what they read. -/
def resetReads : List (Nat × Word) :=
  [(0x000, 0x5A430100#32), (0x044, 0x00000001#32), (0x054, 0x00000001#32), (0x06C, 0x00000001#32), (0x078, 0x00008000#32)]

/-- The completion codes of 60_exceptions.md R570. -/
def completionCodes : List Byte :=
  [0x00#8, 0x01#8, 0x02#8, 0x03#8, 0x10#8, 0x11#8, 0x12#8, 0x13#8, 0x14#8, 0x20#8, 0x21#8, 0x23#8, 0x24#8, 0x30#8, 0x31#8
  , 0x32#8, 0x33#8]

/-! Which commands may write what, by the commands' own rules. -/

/-- RESET, which writes everything but CTRL. -/
def isReset (i : Instr) : Prop := i = .reset

/-- The opcode family of 30_encoding.md R182. -/
def family (i : Instr) : Nat := (encode i).toNat / 16 % 16

/-- The commands that write host memory (the output ranges of their rules). -/
def storesToMemory : Instr → Prop
  | .hufLengths _ | .hufCodes _ | .encRun _ | .decRun | .zipLhWrite _ | .zipCdWrite | .zipEocdWrite => True
  | _ => False

/-- The commands that write CRC_ACC (10_state.md R52). -/
def writesCrc : Instr → Prop
  | .reset | .crcInit | .crcUpdate | .crcByte _ | .encRun _ | .decRun => True
  | _ => False

/-- The commands that write ADLER_ACC (10_state.md R53). -/
def writesAdler : Instr → Prop
  | .reset | .adlerInit | .adlerUpdate | .adlerByte _ => True
  | _ => False

/-- The commands that write a decode-table slot (10_state.md R72). -/
def writesSlots : Instr → Prop
  | .reset | .hufDtable _ | .decRun => True
  | _ => False

/-- The commands that write a ZF_* register (10_state.md R65). -/
def writesEntry : Instr → Prop
  | .reset | .zipCdParse | .zipLhWrite _ => True
  | _ => False

/-- The commands that write a ZE_* register (10_state.md R67). -/
def writesEnd : Instr → Prop
  | .reset | .zipEocdFind => True
  | _ => False

/-! Checksums (41_checksums.md). -/

/-- The reflected CRC-32 of one table index: eight steps of the division (R221). -/
def crcTable (k : Word) : Word :=
  (List.range 8).foldl (fun c _ => if c &&& 1#32 = 1#32 then (c >>> 1) ^^^ 0xEDB88320#32 else c >>> 1) k

/-- The table-driven form of crc_update (R221). -/
def crcByTable (acc : Word) (bs : List Byte) : Word :=
  bs.foldl (fun (c : Word) (b : Byte) => (c >>> 8) ^^^ crcTable ((c ^^^ b.setWidth 32) &&& 0xFF#32)) (acc ^^^ 0xFFFFFFFF#32)
    ^^^ 0xFFFFFFFF#32

/-- The sum of a string's bytes. -/
def byteSum (bs : List Byte) : Nat := (bs.map BitVec.toNat).sum

/-- The sum of the sums of a string's non-empty starts: its first byte counts once for every byte, its last one once (R224). -/
def weightedSum (bs : List Byte) : Nat := ((List.range bs.length).map (fun i => byteSum (bs.take (i + 1)))).sum

/-! Huffman codes (42_huffman.md). -/

/-- The Kraft sum of a code-length vector, scaled by 2^15 (R251). -/
def scaledKraft (len : List Nat) : Nat := (len.map (fun l => if l = 0 then 0 else 2 ^ (15 - l))).sum

/-- A code-length vector with lengths of at most 15 and a Kraft sum of at most 1 (R250, R251). -/
def ValidLengths (len : List Nat) : Prop := (∀ l ∈ len, l ≤ 15) ∧ scaledKraft len ≤ 2 ^ 15

/-- Symbol `i` is used, with code length `l` and bit-reversed code `r` (R260, R270). -/
def IsCode (len : List Nat) (i l r : Nat) : Prop :=
  len[i]? = some l ∧ 0 < l ∧ r = revBits l ((canonicalCodes len).getD i 0)

/-- Follow NODE entries from an entry, for at most `fuel` bits of `b` from bit `k` on (R271; R266 gives the entries: a NODE has
bit 15 and its number in the low bits). -/
def walkFrom (sl : Slot) (b : Nat) : Nat → Nat → Half → Half
  | 0, _, e => e
  | fuel + 1, k, e =>
      if e.getLsbD 15 then walkFrom sl b fuel (k + 1) (sl.tree.getD (2 * (e.toNat % 2 ^ 14) + b / 2 ^ k % 2) 0#16) else e

/-- The table walk of R271 over the bits of `b`: the fast entry of its low ten bits, then at most five tree entries. -/
def tableWalk (sl : Slot) (b : Nat) : Half := walkFrom sl b 5 10 (sl.fast.getD (b % 1024) 0#16)

/-- LEAF(L, sym) (R266). -/
def leafOf (l sym : Nat) : Half := BitVec.ofNat 16 (0x4000 + l * 2 ^ 9 + sym)

/-- The table walk of a slot agrees with the codes of a length vector: it ends in LEAF(L, i) exactly where the bits begin with
symbol i's code of L bits, and in EMPTY exactly where they begin with no code (R271). -/
def WalkFollowsCodes (sl : Slot) (len : List Nat) : Prop :=
  ∀ b : Nat,
    (∀ i l, i < 288 → l ≤ 15 → (tableWalk sl b = leafOf l i ↔ IsCode len i l (b % 2 ^ l))) ∧
    (tableWalk sl b = 0#16 ↔ ∀ i l, ¬ IsCode len i l (b % 2 ^ l))

/-! The match search (43_lz77.md). -/

/-- The byte at a position of a byte sequence. -/
def byteOf (S : List Byte) (i : Nat) : Word := (S.getD i 0#8).setWidth 32

/-- The chain hash of the three bytes at a position (R301). -/
def hashAt (S : List Byte) (q : Nat) : Word :=
  ((byteOf S q <<< 10) ^^^ (byteOf S (q + 1) <<< 5) ^^^ byteOf S (q + 2)) &&& 0x7FFF#32

/-- Position `q` is one of the first `probes` candidates of `p`: it is on p's chain, in the window and not below the base, and
fewer than `probes` positions of the chain lie between it and `p` (R304). -/
def Probed (S : List Byte) (base p probes q : Nat) : Prop :=
  q < p ∧ base ≤ q ∧ p ≤ q + 32768 ∧ hashAt S q = hashAt S p ∧
    (List.range p).countP (fun q' => decide (q < q') && hashAt S q' == hashAt S p) < probes

/-- The `n` bytes at two positions agree. -/
def Agree (S : List Byte) (q p n : Nat) : Prop := ∀ k < n, S[q + k]? = S[p + k]?

/-! The DEFLATE streams (44_deflate_format.md, 45_encoder.md). -/

/-- The probe bound of a level (45_encoder.md R372). -/
def probesOf : Nat → Nat
  | 0 => 0
  | 1 => 1
  | 2 => 4
  | 3 => 8
  | 4 => 16
  | 5 => 32
  | 6 => 128
  | 7 => 256
  | 8 => 512
  | 9 => 1024
  | _ => 4095

/-- The low `n` bits of a number, bit 0 first (00_scope.md R20). -/
def bitsFirst (v n : Nat) : List Bool := (List.range n).map (fun i => v.testBit i)

/-- The bits a formatter has put out so far, from its first: the FIFO's bytes, bit 0 first, then the BitBuffer's. -/
def sinkBits (o : BitSink) : List Bool := o.fifo.flatMap (fun b => bitsFirst b.toNat 8) ++ bitsFirst o.bitbuf.toNat o.nbits

/-- The BitBuffer holds fewer than 8 bits and zeros above them (10_state.md R84). -/
def cleanSink (o : BitSink) : Prop := o.nbits < 8 ∧ o.bitbuf.toNat < 2 ^ o.nbits

/-- The code lengths a packed sequence stands for, appended to `sofar` (44_deflate_format.md R338): 16 repeats the last length,
17 and 18 are runs of zeros. -/
def unpack : List (Nat × Nat) → List Nat → List Nat
  | [], sofar => sofar
  | (c, v) :: rest, sofar =>
      unpack rest
        (if c = 16 then sofar ++ List.replicate (v + 3) (sofar.getLastD 0)
        else if c = 17 then sofar ++ List.replicate (v + 3) 0
        else if c = 18 then sofar ++ List.replicate (v + 11) 0
        else sofar ++ [c])

/-- The bytes a block's records stand for, after the bytes `sofar` (45_encoder.md R403; 43_lz77.md R300): a literal is itself, a
match repeats, byte by byte, the byte its distance back. -/
def replay : List Token → List Byte → List Byte
  | [], sofar => sofar
  | .lit b :: rest, sofar => replay rest (sofar ++ [b])
  | .copy len dist :: rest, sofar =>
      replay rest ((List.range len).foldl (fun out _ => out ++ [out.getD (out.length - dist) 0#8]) sofar)

/-- A match at a position of a byte sequence (43_lz77.md R300). -/
def IsMatchAt (S : List Byte) (p len dist : Nat) : Prop :=
  3 ≤ len ∧ len ≤ 258 ∧ 1 ≤ dist ∧ dist ≤ 32768 ∧ dist ≤ p ∧ p + len ≤ S.length ∧ ∀ k < len, S[p + k]? = S[p - dist + k]?

/-- The parse so far covers the input so far exactly once (45_encoder.md R400): the current block's records stand for the bytes
from the block's start to the parse position, but for the byte a saved match starts at. -/
structure ParseCovers (e : Enc) : Prop where
  position : e.blockStart + e.blockRaw + e.saved.toList.length = e.pos
  inside : e.pos ≤ e.input.length
  held : ∀ m, e.saved = some m → IsMatchAt e.input (e.pos - 1) m.len m.dist
  bytes : replay e.tokens (e.input.take e.blockStart) = e.input.take (e.blockStart + e.blockRaw)
  table : ∀ c ∈ e.fasttab, c.2 < e.pos
  level0 : e.raw = true → e.saved = none

/-- The decoder's stream is open (10_state.md R58). -/
def openStream (d : Dec) : Prop := d.phase ≠ .idle ∧ d.phase ≠ .done ∧ d.phase ≠ .failed

/-- The buffers an open decoder stream's call needs are readable, writable and apart, and the stream's position lies in its
window (46_decoder.md R441, R445). -/
def decReady (s : State) (n o m : Nat) : Prop :=
  match s.dec.omode with
  | .stream => Writable s o m ∧ Apart s.args.a0.toNat n o m
  | .oneshot =>
      Writable s s.dec.wbase.toNat s.dec.wsize.toNat ∧ Readable s s.dec.wbase.toNat s.dec.wsize.toNat ∧
        Apart s.args.a0.toNat n s.dec.wbase.toNat s.dec.wsize.toNat ∧ s.dec.opos ≤ s.dec.wsize.toNat ∧
        s.dec.hist ≤ s.dec.opos ∧ (s.dec.phase = .copy → s.dec.mdist ≤ s.dec.opos)
  | .wrap =>
      Writable s s.dec.wbase.toNat s.dec.wsize.toNat ∧ Readable s s.dec.wbase.toNat s.dec.wsize.toNat ∧
        Apart s.args.a0.toNat n s.dec.wbase.toNat s.dec.wsize.toNat ∧ s.dec.opos < s.dec.wsize.toNat

/-- The range an open decoder stream's call writes in (46_decoder.md R441). -/
def decRange (s : State) : Nat × Nat :=
  match s.dec.omode with
  | .stream => (s.args.a2.toNat, s.args.a3.toNat)
  | .oneshot | .wrap => (s.dec.wbase.toNat, s.dec.wsize.toNat)

/-- Where the `k`th byte that an open stream produces next goes, `o` being the address of the call's output that is still free
(46_decoder.md R480). -/
def outputAt (d : Dec) (o k : Nat) : Nat :=
  match d.omode with
  | .stream => o + k
  | .oneshot => d.wbase.toNat + d.opos + k
  | .wrap => d.wbase.toNat + (d.opos + k) % d.wsize.toNat

/-- Of the next `w` bytes produced, the `k`th is not written over by a later one: always, but in a ring window (46_decoder.md R480). -/
def keptOutput (d : Dec) (w k : Nat) : Prop := d.omode = .wrap → w ≤ k + d.wsize.toNat

/-- The history byte `dist` back from an open stream's position (46_decoder.md R479). -/
def historyByte (s : State) (dist : Nat) : Byte :=
  match s.dec.omode with
  | .stream => ddictRead s.ddict ((s.dec.opos + 32768 - dist) % 32768)
  | .oneshot => s.mem.read (s.dec.wbase.toNat + s.dec.opos - dist)
  | .wrap => s.mem.read (s.dec.wbase.toNat + (s.dec.opos + s.dec.wsize.toNat - dist) % s.dec.wsize.toNat)

/-- An open stream can copy the whole match it holds: its distance lies in the history its mode keeps, the output has room for
it, and the memory it uses can be accessed; `o`, `m` and `w` are the call's output, its length and the bytes written so far
(46_decoder.md R478 to R480). -/
def copyReady (s : State) (o m w : Nat) : Prop :=
  1 ≤ s.dec.mdist ∧ s.dec.hist ≤ 32768 ∧
  match s.dec.omode with
  | .stream => s.dec.mdist ≤ 32768 ∧ s.dec.opos < 32768 ∧ w + s.dec.mlen ≤ m ∧ Writable s o m
  | .oneshot =>
      s.dec.mdist ≤ s.dec.opos ∧ s.dec.opos + s.dec.mlen ≤ s.dec.wsize.toNat ∧
        Readable s s.dec.wbase.toNat s.dec.wsize.toNat ∧ Writable s s.dec.wbase.toNat s.dec.wsize.toNat
  | .wrap =>
      s.dec.mdist ≤ s.dec.wsize.toNat ∧ s.dec.opos < s.dec.wsize.toNat ∧ w + s.dec.mlen ≤ m ∧
        Readable s s.dec.wbase.toNat s.dec.wsize.toNat ∧ Writable s s.dec.wbase.toNat s.dec.wsize.toNat

/-- An open stream's position after `n` more bytes (46_decoder.md R480). -/
def positionAfter (d : Dec) (n : Nat) : Nat :=
  match d.omode with
  | .stream => (d.opos + n) % 32768
  | .oneshot => d.opos + n
  | .wrap => (d.opos + n) % d.wsize.toNat

/-- The most bytes one call may produce (46_decoder.md R441). -/
def decLimit (s : State) : Nat :=
  match s.dec.omode with
  | .stream | .wrap => s.args.a3.toNat
  | .oneshot => s.dec.wsize.toNat - s.dec.opos

/-- The stream's bits a run has not yet taken, `i` and `n` being its input range: the BitBuffer's, then those of the bytes not
yet pulled (46_decoder.md R450). -/
def bitsLeftToTake (i n : Nat) (r : Run) : List Bool :=
  bitsFirst r.s.dec.bitbuf.toNat r.s.dec.nbits ++
    (List.range (n - r.c)).flatMap (fun k => bitsFirst (r.s.mem.read (i + r.c + k)).toNat 8)

/-- A number from its bits, bit 0 first. -/
def bitsValue : List Bool → Nat
  | [] => 0
  | b :: bs => b.toNat + 2 * bitsValue bs

/-! ZIP records (47_zip_records.md R511). -/

/-- The local file header of the entry registers. -/
def localHeader (z : ZipEntry) : List Byte :=
  layout [(4, 0x04034B50), (2, z.verNeed.toNat), (2, z.flags.toNat), (2, z.method.toNat), (2, z.time.toNat)
    , (2, z.date.toNat), (4, z.crc.toNat), (4, z.csize.toNat), (4, z.usize.toNat), (2, z.nameLen.toNat)
    , (2, z.extraLen.toNat)]

/-- The central-directory record of the entry registers; its disk-number-start field is 0 (R515). -/
def centralRecord (z : ZipEntry) : List Byte :=
  layout [(4, 0x02014B50), (2, z.verMade.toNat), (2, z.verNeed.toNat), (2, z.flags.toNat), (2, z.method.toNat)
    , (2, z.time.toNat), (2, z.date.toNat), (4, z.crc.toNat), (4, z.csize.toNat), (4, z.usize.toNat), (2, z.nameLen.toNat)
    , (2, z.extraLen.toNat), (2, z.commentLen.toNat), (2, 0), (2, z.intAttr.toNat), (4, z.extAttr.toNat)
    , (4, z.lhOfs.toNat)]

/-- The end-of-central-directory record of the end registers; its disk fields are 0 and both counts are ZE_NENT (R515). -/
def endRecord (z : ZipEnd) : List Byte :=
  layout [(4, 0x06054B50), (2, 0), (2, 0), (2, z.nent.toNat), (2, z.nent.toNat), (4, z.cdSize.toNat), (4, z.cdOfs.toNat)
    , (2, z.commentLen.toNat)]

/-- The entry registers a central-directory record at `r` loads. -/
def entryAt (s : State) (r : Nat) : ZipEntry :=
  { verMade := BitVec.ofNat 16 (half s (r + 4)), verNeed := BitVec.ofNat 16 (half s (r + 6))
    flags := BitVec.ofNat 16 (half s (r + 8)), method := BitVec.ofNat 16 (half s (r + 10))
    time := BitVec.ofNat 16 (half s (r + 12)), date := BitVec.ofNat 16 (half s (r + 14))
    crc := BitVec.ofNat 32 (full s (r + 16)), csize := BitVec.ofNat 32 (full s (r + 20))
    usize := BitVec.ofNat 32 (full s (r + 24)), nameLen := BitVec.ofNat 16 (half s (r + 28))
    extraLen := BitVec.ofNat 16 (half s (r + 30)), commentLen := BitVec.ofNat 16 (half s (r + 32))
    diskStart := BitVec.ofNat 16 (half s (r + 34)), intAttr := BitVec.ofNat 16 (half s (r + 36))
    extAttr := BitVec.ofNat 32 (full s (r + 38)), lhOfs := BitVec.ofNat 32 (full s (r + 42)) }

/-- The end registers an end-of-central-directory record at host address `a` and archive offset `p` loads. -/
def endAt (s : State) (a p : Nat) : ZipEnd :=
  { disk := BitVec.ofNat 16 (half s (a + 4)), cdDisk := BitVec.ofNat 16 (half s (a + 6))
    nentDisk := BitVec.ofNat 16 (half s (a + 8)), nent := BitVec.ofNat 32 (half s (a + 10))
    cdSize := BitVec.ofNat 32 (full s (a + 12)), cdOfs := BitVec.ofNat 32 (full s (a + 16))
    commentLen := BitVec.ofNat 16 (half s (a + 20)), ofs := BitVec.ofNat 32 p }

/-- A central-directory record's fixed part passes every check of ZIP_CD_PARSE (R530), `av` bytes being available in an archive
of `sz` bytes. -/
def goodCentral (s : State) (r av sz : Nat) : Prop :=
  full s r = 0x02014B50 ∧ 46 + half s (r + 28) + half s (r + 30) + half s (r + 32) ≤ av ∧ half s (r + 34) = 0 ∧
    (half s (r + 8)).testBit 0 = false ∧ (half s (r + 8)).testBit 6 = false ∧ (half s (r + 8)).testBit 5 = false ∧
    full s (r + 20) ≠ 0xFFFFFFFF ∧ full s (r + 24) ≠ 0xFFFFFFFF ∧ full s (r + 42) ≠ 0xFFFFFFFF ∧
    (half s (r + 10) = 0 → full s (r + 24) = full s (r + 20)) ∧ (full s (r + 24) ≠ 0 → full s (r + 20) ≠ 0) ∧
    full s (r + 42) + 30 + full s (r + 20) ≤ sz

/-- The byte of a name that ZIP_NAME_CMP compares (R515, R546). -/
def folded (caseSensitive : Bool) (b : Byte) : Nat :=
  if caseSensitive = false ∧ 0x41 ≤ b.toNat ∧ b.toNat ≤ 0x5A then b.toNat + 0x20 else b.toNat

end Sys2Proof.Claims

open Sys2Proof Sys2Proof.Machine Sys2Proof.Claims

/-! Encoding and the command step (30_encoding.md, 40_control.md R214). -/

/-- R180, R184: decoding the word a well-formed command encodes to gives the command back, with every field. -/
def Obligations.DecodeOfEncodeIsTheCommand : Prop :=
  ∀ i : Instr, i.wellFormed = true → decode (encode i) = .ok i

/-- R180, R184: a word that decodes is the word its command encodes to, and the command is well formed: no bit is dropped. -/
def Obligations.EncodeOfDecodeIsTheWord : Prop :=
  ∀ (w : Word) (i : Instr), decode w = .ok i → encode i = w ∧ i.wellFormed = true

/-- R190: the words that the rule writes out, each as the command it names; and R183's other opcodes without fields. -/
def Obligations.CommandWordExamples : Prop :=
  decode 0x00004112#32 = .ok (.crcByte 0x41#8) ∧ decode 0x000F0020#32 = .ok (.hufLengths 15) ∧
    decode 0x00000121#32 = .ok (.hufCodes true) ∧ decode 0x00030524#32 = .ok (.hufPeek 1 true 3) ∧
    decode 0x00100130#32 = .ok (.lzFind true false 16) ∧ decode 0x00010640#32 = .ok (.encInit 6 true false false false false) ∧
    decode 0x00000441#32 = .ok (.encRun 4) ∧ decode 0x00000150#32 = .ok (.decInit true 0 false) ∧
    decode 0x00040061#32 = .ok (.zipLhWrite 4) ∧ decode 0x00000000#32 = .ok .nop ∧ decode 0x00000001#32 = .ok .reset

/-- R186: a command word with a reserved opcode completes with ILLEGAL_CMD, cause 1, ERR_INFO the word, and changes nothing
else; each opcode is in R184's table or reserved, not both. -/
def Obligations.ReservedOpcodeCompletesIllegal : Prop :=
  (∀ s : State, blockNext s → s.status.busy = true → reservedOpcode (s.cmd.toNat % 256) →
    step s = .next (raised (turnTaken s) 0x10#8 1#8 s.cmd)) ∧
  ∀ n < 256, (reservedOpcode n ↔ ∀ row ∈ rows, row.1 ≠ n)

/-- R187: a command word with a defined opcode and a nonzero bit where the row's mask requires 0 completes with ILLEGAL_CMD,
cause 2, ERR_INFO the word, and changes nothing else. -/
def Obligations.ReservedBitsCompleteIllegal : Prop :=
  ∀ (s : State) (row : Nat × Word), blockNext s → s.status.busy = true → row ∈ rows → s.cmd.toNat % 256 = row.1 →
    s.cmd &&& row.2 ≠ BitVec.ofNat 32 row.1 → step s = .next (raised (turnTaken s) 0x10#8 2#8 s.cmd)

/-- R214: at the block's turn a launched command that decodes is performed as one step; an idle block's turn changes nothing
(R613; that a turn of an idle block is a step at all is log 3). -/
def Obligations.StepPerformsTheDecodedCommand : Prop :=
  (∀ (s : State) (i : Instr), blockNext s → s.status.busy = true → decode s.cmd = .ok i →
    step s = exec i (turnTaken s)) ∧
  ∀ s : State, blockNext s → s.status.busy = false → step s = .next (turnTaken s)

/-! The register window (10_state.md). -/

/-- R43: a write to CMD while BUSY = 0 launches the command; while BUSY = 1 it is ignored and sets OVR; a read returns the last
word accepted. The write is the host's action at the head of the queue (log 3). -/
def Obligations.WriteToCmdLaunches : Prop :=
  ∀ (s : State) (addr size : Nat) (v : Word) (rest : List HostEvent), s.hostq = .write addr size v :: rest →
    atRegister s addr size 0x004 →
    (s.status.busy = false → step s = .next { s with
      hostq := rest, cmd := v, status := { s.status with busy := true, cmpl := false } }) ∧
    (s.status.busy = true → step s = .next { s with hostq := rest, status := { s.status with ovr := true } }) ∧
    s.busRead addr size = s.cmd

/-- R45: while BUSY = 1 a write to any register of the window is ignored and sets OVR, and a read returns what it would return
with no command in flight and changes nothing. -/
def Obligations.WritesWhileBusyOnlySetOverrun : Prop :=
  ∀ (s : State) (addr size off : Nat) (rest : List HostEvent), s.status.busy = true → atRegister s addr size off →
    (∀ v, s.hostq = .write addr size v :: rest →
      step s = .next { s with hostq := rest, status := { s.status with ovr := true } }) ∧
    (s.hostq = .read addr size :: rest → step s = .next { s with hostq := rest, busData := s.regRead off })

/-- R44: a write to STATUS while BUSY = 0 clears CMPL if its bit 9 is 1 and OVR if its bit 11 is 1, and nothing else; STATUS
reads as its fields, ERR being CODE ≥ 0x10. -/
def Obligations.StatusWriteClearsByOnes : Prop :=
  ∀ s : State,
    (∀ v : Word, s.regWrite 0x008 v = { s with status := { s.status with
      cmpl := if v.getLsbD 9 then false else s.status.cmpl
      ovr := if v.getLsbD 11 then false else s.status.ovr } }) ∧
    s.regRead 0x008 = BitVec.ofNat 32 (s.status.code.toNat + 2 ^ 8 * s.status.busy.toNat + 2 ^ 9 * s.status.cmpl.toNat +
      2 ^ 10 * (decide (0x10 ≤ s.status.code.toNat)).toNat + 2 ^ 11 * s.status.ovr.toNat +
      2 ^ 16 * s.status.lastOpc.toNat)

/-- R41, R46, R50, R65: a 32-bit RW register reads back as written, a 16-bit one keeps bits [15:0], CTRL keeps bit 0; and the
host's word write of a register while BUSY = 0 is a step that does just that write (at the head of the queue: log 3), so that a
read of the register then returns what it keeps. -/
def Obligations.WritableRegistersReadBack : Prop :=
  (∀ (s : State) (v : Word),
    (∀ off ∈ fullRegisters, (s.regWrite off v).regRead off = v) ∧
    (∀ off ∈ halfRegisters, (s.regWrite off v).regRead off = v &&& 0x0000FFFF#32) ∧
    (s.regWrite 0x00C v).regRead 0x00C = v &&& 0x00000001#32) ∧
  ∀ (s : State) (addr size off : Nat) (v : Word) (rest : List HostEvent), s.status.busy = false →
    atRegister s addr size off → s.hostq = .write addr size v :: rest →
    ∃ t, step s = .next t ∧ t = { s with hostq := rest }.regWrite off v ∧ t.hostq = rest ∧
      (off ∈ fullRegisters → t.busRead addr size = v) ∧
      (off ∈ halfRegisters → t.busRead addr size = v &&& 0x0000FFFF#32) ∧
      (off = 0x00C → t.busRead addr size = v &&& 0x00000001#32)

/-- R51: a register has one name and one offset: a write to one register, but for CMD and STATUS, which have their own rules,
changes what no other offset reads. -/
def Obligations.RegistersDoNotAlias : Prop :=
  ∀ (s : State) (v : Word) (x y : Nat), x ≠ 0x004 → x ≠ 0x008 → x ≠ y → (s.regWrite x v).regRead y = s.regRead y

/-- R40, R150: a write to a read-only register or a reserved offset changes nothing, a reserved offset reads 0, and an access
of another width or alignment, or outside the window, reads 0 and writes nothing, OVR included. -/
def Obligations.UndecodedAccessesDoNothing : Prop :=
  ∀ (s : State) (v : Word),
    (∀ off ∈ readOnlyRegisters, s.regWrite off v = s) ∧
    (∀ off, off = 0x05C ∨ 0x0E0 ≤ off → s.regRead off = 0#32) ∧
    ∀ addr size, (∀ off, ¬ atRegister s addr size off) → s.busWrite addr size v = s ∧ s.busRead addr size = 0#32

/-- R590: after a completed step of the block, of any command word, irq is asserted exactly if IRQ_EN is 1; it is deasserted by
a launch, by a write of 1 to CMPL, by a write of 0 to IRQ_EN, and after reset. -/
def Obligations.InterruptFollowsCompletion : Prop :=
  (∀ s t : State, blockNext s → s.status.busy = true → step s = .next t → t.irq = s.irqEn) ∧
  (∀ (s : State) (v : Word), (s.launch v).irq = false ∧ (s.regWrite 0x008 0x00000200#32).irq = false ∧
    (s.regWrite 0x00C 0x00000000#32).irq = false) ∧
  ∀ s : State, s.applyReset.irq = false

/-! Reset (70_reset_and_hazards.md). -/

/-- R610, R611: the reset input, from any state, a command in flight included, leaves every register at the value of the table:
five registers read the values listed, every other offset reads 0, the slots are empty; host memory is not changed. -/
def Obligations.ResetInputGivesResetValues : Prop :=
  ∀ (s : State) (rest : List HostEvent), s.hostq = .rst :: rest →
    ∃ t, step s = .next t ∧ t.mem = s.mem ∧ (∀ p ∈ resetReads, t.regRead p.1 = p.2) ∧
      (∀ off, (∀ p ∈ resetReads, p.1 ≠ off) → t.regRead off = 0#32) ∧
      (∀ k : Fin 4, t.slots.get k = { n := 0, len := List.replicate 288 0, used := 0, fast := List.replicate 1024 0#16
                                      tree := List.replicate 576 0#16, nodes := 0 }) ∧
      t.enc.input = [] ∧ t.enc.tokens = [] ∧ t.enc.out.fifo = [] ∧ t.enc.fasttab = [] ∧ t.dec.lens = [] ∧ t.irq = false

/-- R210, R212, R612: NOP only completes. RESET gives every register its reset value but CTRL, which it keeps, and CMD, which
holds the command word; STATUS then reads 0x00010200. Host memory, the platform and the model's own fields stay (log 15). -/
def Obligations.NopAndResetComplete : Prop :=
  ∀ s : State, exec .nop s = .next (completed s 0x00#8 0#32 0#32) ∧
    ∃ t, exec .reset s = .next t ∧ t.regRead 0x008 = 0x00010200#32 ∧
      t = { State.reset with
        status := t.status, cmd := 0x00000001#32, irqEn := s.irqEn, mem := s.mem, plat := s.plat, hostq := s.hostq
        busData := s.busData }

/-! The machine as a whole. -/

/-- R580, R570, R572: a step that performs a command word, legal or not, completes it once: BUSY falls, CMPL rises, LASTOPC is
the word's opcode, CODE is a code of the table; ERR_CAUSE and ERR_INFO are 0 without an error, and ERR_CAUSE is not 0 with one.
The invariant is a premise: a failed decoder's saved code is one of the table in every state a run reaches. -/
def Obligations.EveryCommandCompletes : Prop :=
  ∀ s : State, Inv s → blockNext s → s.status.busy = true → ∃ t, step s = .next t ∧
    t.status.busy = false ∧ t.status.cmpl = true ∧ t.status.lastOpc = s.cmd.setWidth 8 ∧
    t.status.code ∈ completionCodes ∧ (t.status.code.toNat < 0x10 → t.errCause = 0#8 ∧ t.errInfo = 0#32) ∧
    (0x10 ≤ t.status.code.toNat → t.errCause ≠ 0#8)

/-- R24, R580: the machine never stops: every step, from every state, ends in a next state, no fault and no refusal. -/
def Obligations.EveryStepGivesANextState : Prop := ∀ s : State, ∃ t, step s = .next t

/-- R50 to R53, R65, R67, R72, R141, R168, R552: what each command leaves unchanged, of all the commands. No command writes
ARG0 to ARG7 (R50) but RESET, which resets them (R212). The platform, the host's queue and the bus latch are no command's. -/
def Obligations.CommandsWriteOnlyTheirOwnState : Prop :=
  ∀ (i : Instr) (s t : State), exec i s = .next t →
    t.irqEn = s.irqEn ∧ t.plat = s.plat ∧ t.hostq = s.hostq ∧ t.busData = s.busData ∧
    (¬ isReset i → t.args = s.args ∧ t.cmd = s.cmd ∧ t.status.ovr = s.status.ovr) ∧
    (¬ storesToMemory i → t.mem = s.mem) ∧
    (¬ writesCrc i → t.crcAcc = s.crcAcc) ∧ (¬ writesAdler i → t.adlerAcc = s.adlerAcc) ∧
    (¬ writesSlots i → t.slots = s.slots) ∧ (¬ writesEntry i → t.zf = s.zf) ∧ (¬ writesEnd i → t.ze = s.ze) ∧
    (¬ isReset i → family i ≠ 4 → t.enc = s.enc) ∧
    (¬ isReset i → family i ≠ 5 → t.dec = s.dec ∧ t.ddict = s.ddict)

/-- The invariant is kept by every step, of the host, the platform and the block, from every state that has it. -/
def Obligations.StepKeepsTheInvariant : Prop := ∀ s t : State, Inv s → step s = .next t → Inv t

/-- The state after reset has the invariant. -/
def Obligations.ResetHasTheInvariant : Prop := Inv State.reset

/-! Checksums (41_checksums.md). -/

/-- R228, R230, R232, R234: the results of CRC_INIT, CRC_BYTE, ADLER_INIT and ADLER_BYTE. -/
def Obligations.ChecksumInitsAndBytes : Prop :=
  ∀ (s : State) (b : Byte),
    exec .crcInit s = .next (completed { s with crcAcc := 0#32 } 0x00#8 0#32 0#32) ∧
    exec .adlerInit s = .next (completed { s with adlerAcc := 1#32 } 0x00#8 1#32 0#32) ∧
    exec (.crcByte b) s = .next (completed { s with crcAcc := crcByTable s.crcAcc [b] } 0x00#8
      (crcByTable s.crcAcc [b]) 1#32) ∧
    exec (.adlerByte b) s = .next (completed { s with adlerAcc := adlerUpdate s.adlerAcc [b] } 0x00#8
      (adlerUpdate s.adlerAcc [b]) 1#32)

/-- R229, R233: CRC_UPDATE and ADLER_UPDATE over a readable range. -/
def Obligations.ChecksumBufferUpdates : Prop :=
  ∀ s : State, Readable s s.args.a0.toNat s.args.a1.toNat →
    exec .crcUpdate s = .next (completed { s with crcAcc := crcUpdate s.crcAcc (bytesAt s s.args.a0.toNat s.args.a1.toNat) }
      0x00#8 (crcUpdate s.crcAcc (bytesAt s s.args.a0.toNat s.args.a1.toNat)) s.args.a1) ∧
    exec .adlerUpdate s =
      .next (completed { s with adlerAcc := adlerUpdate s.adlerAcc (bytesAt s s.args.a0.toNat s.args.a1.toNat) }
        0x00#8 (adlerUpdate s.adlerAcc (bytesAt s s.args.a0.toNat s.args.a1.toNat)) s.args.a1)

/-- R229, R233, R145, R147: the errors of CRC_UPDATE and ADLER_UPDATE, in their order: NULL_BUF, then RANGE, then BUS_ERROR at
the first byte that cannot be read, with the accumulator unchanged. -/
def Obligations.ChecksumUpdateErrors : Prop :=
  ∀ (s : State) (i : Instr), i = .crcUpdate ∨ i = .adlerUpdate →
    (0 < s.args.a1.toNat → s.args.a0 = 0#32 → exec i s = .next (raised s 0x11#8 14#8 0#32)) ∧
    (s.args.a0 ≠ 0#32 → 2 ^ 32 < s.args.a0.toNat + s.args.a1.toNat → exec i s = .next (raised s 0x11#8 3#8 s.args.a0)) ∧
    ∀ k, s.args.a0 ≠ 0#32 → s.args.a0.toNat + s.args.a1.toNat ≤ 2 ^ 32 → k < s.args.a1.toNat →
      Readable s s.args.a0.toNat k → s.memOk (s.args.a0.toNat + k) .read = false →
      exec i s = .next (raised s 0x14#8 1#8 (s.args.a0 + BitVec.ofNat 32 k))

/-- R220: an update by one string after another is the update by their concatenation, for both checksums, and in general the
order matters. -/
def Obligations.ChecksumsAppend : Prop :=
  (∀ (acc : Word) (a b : List Byte), crcUpdate (crcUpdate acc a) b = crcUpdate acc (a ++ b) ∧
    adlerUpdate (adlerUpdate acc a) b = adlerUpdate acc (a ++ b)) ∧
  (∃ (acc : Word) (a b : List Byte), crcUpdate (crcUpdate acc a) b ≠ crcUpdate (crcUpdate acc b) a) ∧
  ∃ (acc : Word) (a b : List Byte), adlerUpdate (adlerUpdate acc a) b ≠ adlerUpdate (adlerUpdate acc b) a

/-- R221, R224, R226: the table-driven form of CRC-32 computes the same value as the bit-serial one; after a non-empty update
the low half of the Adler-32 accumulator is the sum of the bytes added to the low half before, and the high half the sum of the
low halves added to the high half before, both modulo 65521 and so below it, whatever the accumulator held; an empty update
leaves it unreduced. -/
def Obligations.ChecksumFormsAgree : Prop :=
  (∀ (acc : Word) (bs : List Byte), crcByTable acc bs = crcUpdate acc bs) ∧
  (∀ acc : Word, adlerUpdate acc [] = acc) ∧
  ∀ (acc : Word) (bs : List Byte), bs ≠ [] →
    (adlerUpdate acc bs).toNat % 65536 = (acc.toNat % 65536 + byteSum bs) % 65521 ∧
    (adlerUpdate acc bs).toNat / 65536 =
      (acc.toNat / 65536 + bs.length * (acc.toNat % 65536) + weightedSum bs) % 65521 ∧
    (adlerUpdate acc bs).toNat % 65536 < 65521 ∧ (adlerUpdate acc bs).toNat / 65536 < 65521

/-! Huffman coder and decode tables (42_huffman.md). -/

/-- R252: HUF_LENGTHS reads the frequencies, writes the lengths that build_lengths gives and completes with the number of used
symbols and the longest length; a limit of 0 and more used symbols than 2^MAXLEN are refused, and nothing is written. -/
def Obligations.HufLengthsWritesLengths : Prop :=
  ∀ s : State, exec (.hufLengths 0) s = .next (raised s 0x11#8 6#8 0#32) ∧
    ∀ (maxlen : Nat) (freq : List Nat), s.mem.wf = true → 1 ≤ maxlen → maxlen ≤ 15 → s.args.a1.toNat ≤ 288 →
      Readable s s.args.a0.toNat (2 * s.args.a1.toNat) → Writable s s.args.a2.toNat s.args.a1.toNat →
      Apart s.args.a0.toNat (2 * s.args.a1.toNat) s.args.a2.toNat s.args.a1.toNat →
      freq = (List.range s.args.a1.toNat).map (fun k => half s (s.args.a0.toNat + 2 * k)) →
      (2 ^ maxlen < freq.countP (fun x => 0 < x) →
        exec (.hufLengths maxlen) s = .next (raised s 0x11#8 7#8 (BitVec.ofNat 32 (freq.countP (fun x => 0 < x))))) ∧
      (freq.countP (fun x => 0 < x) ≤ 2 ^ maxlen →
        ∃ t, exec (.hufLengths maxlen) s = .next t ∧
          t = completed { s with mem := t.mem } 0x00#8 (BitVec.ofNat 32 (freq.countP (fun x => 0 < x)))
            (BitVec.ofNat 32 ((buildLengths freq maxlen).foldl max 0)) ∧
          Stored s t s.args.a2.toNat ((buildLengths freq maxlen).map (BitVec.ofNat 8)))

/-- R252, R253, R257: the length builder gives one length to each symbol, none above the limit, 0 to each unused symbol; one
used symbol alone gets length 1, with a Kraft sum of 2^14; two or more, no more than 2^maxlen, get lengths with a Kraft sum of
exactly 2^15, for the limits of 1 to 15 that HUF_LENGTHS accepts. -/
def Obligations.BuiltLengthsKeepTheLimit : Prop :=
  ∀ (freq : List Nat) (maxlen : Nat), 1 ≤ maxlen →
    (buildLengths freq maxlen).length = freq.length ∧ (∀ l ∈ buildLengths freq maxlen, l ≤ maxlen) ∧
    (∀ k : Nat, freq[k]? = some 0 → (buildLengths freq maxlen)[k]? = some 0) ∧
    (∀ k : Nat, freq.countP (fun x => 0 < x) = 1 → 0 < freq.getD k 0 → (buildLengths freq maxlen)[k]? = some 1) ∧
    (freq.countP (fun x => 0 < x) = 1 → scaledKraft (buildLengths freq maxlen) = 2 ^ 14) ∧
    (maxlen ≤ 15 → 2 ≤ freq.countP (fun x => 0 < x) → freq.countP (fun x => 0 < x) ≤ 2 ^ maxlen →
      scaledKraft (buildLengths freq maxlen) = 2 ^ 15)

/-- R261: HUF_CODES reads the lengths, writes each symbol's canonical code, bit-reversed with REVERSE, 0 for an unused symbol,
as 16-bit little-endian entries, and completes with the used symbols and the Kraft sum; a length above 15, then a Kraft sum above
1, raise CORRUPT_TABLE, and nothing is written. -/
def Obligations.HufCodesWritesCodes : Prop :=
  ∀ (s : State) (reverse : Bool) (len : List Nat) (kraftSum : Nat), s.mem.wf = true → s.args.a1.toNat ≤ 288 →
    Readable s s.args.a0.toNat s.args.a1.toNat → Writable s s.args.a2.toNat (2 * s.args.a1.toNat) →
    Apart s.args.a0.toNat s.args.a1.toNat s.args.a2.toNat (2 * s.args.a1.toNat) →
    len = (bytesAt s s.args.a0.toNat s.args.a1.toNat).map BitVec.toNat →
    kraftSum = scaledKraft len →
    (∀ i, 15 < len.getD i 0 → (∀ j < i, len.getD j 0 ≤ 15) →
      exec (.hufCodes reverse) s = .next (raised s 0x20#8 3#8 (BitVec.ofNat 32 i))) ∧
    ((∀ l ∈ len, l ≤ 15) → 2 ^ 15 < kraftSum →
      exec (.hufCodes reverse) s = .next (raised s 0x20#8 1#8 (BitVec.ofNat 32 kraftSum))) ∧
    ((∀ l ∈ len, l ≤ 15) → kraftSum ≤ 2 ^ 15 →
      ∃ t, exec (.hufCodes reverse) s = .next t ∧
        t = completed { s with mem := t.mem } 0x00#8 (BitVec.ofNat 32 (len.countP (fun l => 0 < l)))
          (BitVec.ofNat 32 kraftSum) ∧
        Stored s t s.args.a2.toNat (layout ((len.zip (canonicalCodes len)).map (fun e =>
          (2, if e.1 = 0 then 0 else if reverse then revBits e.1 e.2 else e.2)))))

/-- R260: the canonical codes of a vector with a Kraft sum of at most 1 fit their lengths and are prefix-free: no code's bits,
in stream order, begin another's. -/
def Obligations.CanonicalCodesArePrefixFree : Prop :=
  ∀ (len : List Nat) (i j li lj ri rj : Nat), ValidLengths len → IsCode len i li ri → IsCode len j lj rj →
    (canonicalCodes len).getD i 0 < 2 ^ li ∧ (i ≠ j → li ≤ lj → rj % 2 ^ li ≠ ri)

/-- R263, R264, R266, R271: HUF_DTABLE on a slot the decoder does not own. A length above 15 and a Kraft sum other than 1 with two or more
used symbols empty the slot and raise CORRUPT_TABLE; a valid vector fills the slot, and the walk over its entries ends in the leaf
of the symbol whose code the bits begin with, and in an empty entry where they begin with none. A slot the open decoder stream
owns is refused. -/
def Obligations.HufDtableBuildsOrEmptiesTheSlot : Prop :=
  ∀ (s : State) (k : Fin 4) (len : List Nat),
    (k.val ≤ 2 → openStream s.dec → exec (.hufDtable k) s = .next (raised s 0x13#8 1#8 (BitVec.ofNat 32 k.val))) ∧
    ((k.val ≤ 2 → ¬ openStream s.dec) → s.args.a1.toNat ≤ 288 → Readable s s.args.a0.toNat s.args.a1.toNat →
      len = (bytesAt s s.args.a0.toNat s.args.a1.toNat).map BitVec.toNat →
      (∀ i, 15 < len.getD i 0 → (∀ j < i, len.getD j 0 ≤ 15) →
        exec (.hufDtable k) s = .next (raised { s with slots := s.slots.set k Slot.empty } 0x20#8 3#8 (BitVec.ofNat 32 i))) ∧
      ((∀ l ∈ len, l ≤ 15) → 2 ≤ usedCount len → 2 ^ 15 < kraft len →
        exec (.hufDtable k) s =
          .next (raised { s with slots := s.slots.set k Slot.empty } 0x20#8 1#8 (BitVec.ofNat 32 (kraft len)))) ∧
      ((∀ l ∈ len, l ≤ 15) → 2 ≤ usedCount len → kraft len < 2 ^ 15 →
        exec (.hufDtable k) s =
          .next (raised { s with slots := s.slots.set k Slot.empty } 0x20#8 2#8 (BitVec.ofNat 32 (kraft len)))) ∧
      ((∀ l ∈ len, l ≤ 15) → (2 ≤ usedCount len → kraft len = 2 ^ 15) →
        ∃ sl : Slot, exec (.hufDtable k) s = .next (completed { s with slots := s.slots.set k sl } 0x00#8
            (BitVec.ofNat 32 (usedCount len)) (BitVec.ofNat 32 sl.nodes)) ∧
          sl = tableOf len ∧ sl.n = len.length ∧ sl.len.take sl.n = len ∧ sl.used = usedCount len ∧ WalkFollowsCodes sl len))

/-- R270, R272: HUF_DECODE on a slot of valid lengths gives the symbol whose bit-reversed code the bits begin with, and its
length; with no such symbol NEEDS_INPUT if the bits begin some code, else INVALID_CODE. A count above 32 is refused. -/
def Obligations.HufDecodeFollowsTheCodes : Prop :=
  ∀ (s : State) (k : Fin 4) (len : List Nat) (b c : Nat), len = (s.slots.get k).len.take (s.slots.get k).n →
    b = s.args.a0.toNat → c = s.args.a1.toNat →
    (32 < c → exec (.hufDecode k) s = .next (raised s 0x11#8 9#8 s.args.a1)) ∧
    (c ≤ 32 → ValidLengths len →
      (∀ i l r, IsCode len i l r → l ≤ c → b % 2 ^ l = r →
        exec (.hufDecode k) s = .next (completed s 0x00#8 (BitVec.ofNat 32 i) (BitVec.ofNat 32 l))) ∧
      ((¬ ∃ i l r, IsCode len i l r ∧ l ≤ c ∧ b % 2 ^ l = r) →
        ((∃ i l r, IsCode len i l r ∧ c < l ∧ r % 2 ^ c = b % 2 ^ c) →
          exec (.hufDecode k) s = .next (completed s 0x02#8 0#32 0#32)) ∧
        ((¬ ∃ i l r, IsCode len i l r ∧ c < l ∧ r % 2 ^ c = b % 2 ^ c) →
          exec (.hufDecode k) s = .next (raised s 0x21#8 10#8 0#32))))

/-- R290: HUF_PEEK reads one entry of a slot and its counts; an index past the table is refused; its encoding. -/
def Obligations.HufPeekReadsTheEntry : Prop :=
  ∀ (s : State) (k : Fin 4) (tree : Bool) (j : Nat),
    (∀ w : Word, decode w = .ok (.hufPeek k tree j) ↔ w &&& 0x0000F8FF#32 = 0x00000024#32 ∧
      w.toNat / 2 ^ 8 % 4 = k.val ∧ w.getLsbD 10 = tree ∧ w.toNat / 2 ^ 16 = j) ∧
    (j ≤ (if tree then 575 else 1023) → exec (.hufPeek k tree j) s = .next (completed s 0x00#8
      (BitVec.setWidth 32 (if tree then (s.slots.get k).tree.getD j 0#16 else (s.slots.get k).fast.getD j 0#16))
      (BitVec.ofNat 32 (s.slots.get k).used ||| BitVec.ofNat 32 (s.slots.get k).nodes <<< 16))) ∧
    ((if tree then 575 else 1023) < j →
      exec (.hufPeek k tree j) s = .next (raised s 0x11#8 16#8 (BitVec.ofNat 32 j)))

/-! LZ77 (43_lz77.md). -/

/-- R302: LZ_FIND on a readable buffer gives the accepted result of the search over the whole buffer, although it reads only
the window; its parameter errors, in order. -/
def Obligations.LzFindSearchesTheBuffer : Prop :=
  ∀ (s : State) (reject filter : Bool) (probes a n p m : Nat), a = s.args.a0.toNat → n = s.args.a1.toNat →
    p = s.args.a2.toNat → m = s.args.a3.toNat →
    (258 < m → exec (.lzFind reject filter probes) s = .next (raised s 0x11#8 6#8 s.args.a3)) ∧
    (m ≤ 258 → Readable s a n → n ≤ p → exec (.lzFind reject filter probes) s = .next (raised s 0x11#8 12#8 s.args.a2)) ∧
    (m ≤ 258 → Readable s a n → p < n →
      ∃ r, r = accept (find (bytesAt s a n) 0 p (min m (n - p)) probes) reject filter ∧
        exec (.lzFind reject filter probes) s =
          .next (completed s 0x00#8 (BitVec.ofNat 32 r.len) (BitVec.ofNat 32 r.dist)))

/-- R306: the search result with acceptance, when it is not (0, 0), is a match in the sense of R300: its length and distance are
in their ranges, it does not reach below the base, and each of its bytes equals the byte its distance back. -/
def Obligations.AcceptedMatchesAreMatches : Prop :=
  ∀ (S : List Byte) (base p maxlen probes : Nat) (reject filter : Bool) (r : Match), p + maxlen ≤ S.length → maxlen ≤ 258 →
    r = accept (find S base p maxlen probes) reject filter → r ≠ Match.none →
    3 ≤ r.len ∧ r.len ≤ maxlen ∧ maxlen ≤ 258 ∧ 1 ≤ r.dist ∧ r.dist ≤ 32768 ∧ base + r.dist ≤ p ∧
      ∀ k < r.len, S[p + k]? = S[p - r.dist + k]?

/-- R304, R307: for fixed S, base, P and maxlen the length the search returns never decreases as the probe bound grows. The search
gives (0, 0) for a cap below 3 or no probes; else, with the capped bytes at P inside the sequence, no candidate among the first
`probes` of P's chain agrees with P in more bytes, up to the cap, than the result says, nor in as many at a shorter distance; and a
result other than (0, 0) is one of those candidates, agreeing in as many bytes as it says. -/
def Obligations.MoreProbesFindNoShorterMatch : Prop :=
  (∀ (S : List Byte) (base p maxlen few many : Nat), few ≤ many →
    (find S base p maxlen few).len ≤ (find S base p maxlen many).len) ∧
  ∀ (S : List Byte) (base p maxlen probes : Nat) (r : Match), r = find S base p maxlen probes →
    (maxlen < 3 ∨ probes = 0 → r = { len := 0, dist := 0 }) ∧
    (3 ≤ maxlen → p + maxlen ≤ S.length →
      (∀ q n, Probed S base p probes q → n ≤ maxlen → Agree S q p n →
        n ≤ r.len ∧ (n = r.len → 0 < n → r.dist ≤ p - q)) ∧
      (r ≠ { len := 0, dist := 0 } → 0 < r.len ∧ r.len ≤ maxlen ∧ 1 ≤ r.dist ∧ r.dist ≤ p ∧
        Probed S base p probes (p - r.dist) ∧ Agree S (p - r.dist) p r.len))

/-- R301, R308: LZ_HASH of the three bytes in ARG0[23:0], 15 bits wide, or 12 with FAST; its encoding. -/
def Obligations.LzHashOfThreeBytes : Prop :=
  ∀ (s : State) (fast : Bool),
    (∀ w : Word, decode w = .ok (.lzHash fast) ↔ w &&& 0xFFFFFEFF#32 = 0x00000031#32 ∧ w.getLsbD 8 = fast) ∧
    exec (.lzHash fast) s = .next (completed s 0x00#8
    ((((s.args.a0 &&& 0xFF#32) <<< 10) ^^^ (((s.args.a0 >>> 8) &&& 0xFF#32) <<< 5) ^^^ ((s.args.a0 >>> 16) &&& 0xFF#32)) &&&
      (if fast then 0x0FFF#32 else 0x7FFF#32)) 0#32)

/-! The encoder (45_encoder.md). -/

/-- R372, R380: ENC_INIT opens a stream from any state, with its level's parse mode and probe bound and, with ZLIB, the two
header bytes in the FIFO; a level above 10 is refused and changes nothing. -/
def Obligations.EncInitOpensTheStream : Prop :=
  ∀ (s : State) (lv : Nat) (zlib forceStatic filter crcTap probesOvr : Bool),
    (10 < lv → exec (.encInit lv zlib forceStatic filter crcTap probesOvr) s =
      .next (raised s 0x11#8 5#8 (BitVec.ofNat 32 lv))) ∧
    (lv ≤ 10 → exec (.encInit lv zlib forceStatic filter crcTap probesOvr) s = .next (completed { s with enc :=
      { phase := .ready, level := BitVec.ofNat 4 lv
        flags := { zlib := zlib, forceStatic := forceStatic, filter := filter, crcTap := crcTap, probesOvr := probesOvr }
        probes := if probesOvr = true ∧ 1 ≤ lv then s.args.a0.setWidth 12 else BitVec.ofNat 12 (probesOf lv)
        greedy := decide (lv ≤ 3), fast := decide (lv = 1) && !filter, raw := decide (lv = 0), input := [], base := 0
        pos := 0, saved := none, tokens := [], blockRaw := 0, blockStart := 0, fasttab := []
        out := { bitbuf := 0#32, nbits := 0, fifo := if zlib then [0x78#8, 0x01#8] else [] }, adler := 1#32, totalIn := 0#32
        totalOut := 0#32 } } 0x00#8 0#32 0#32))

/-- R390, R394 to R396: the calls of ENC_RUN that a stream's state refuses, with the errors that fail the stream (its lost bytes
stay in the FIFO: log 19); and a finished stream's FINISH, which gives DONE again. -/
def Obligations.EncRunStateChecks : Prop :=
  ∀ (s : State) (f : Nat),
    (s.enc.phase = .idle → exec (.encRun f) s = .next (raised s 0x12#8 1#8 0#32)) ∧
    (s.enc.phase = .failed → exec (.encRun f) s = .next (raised s 0x12#8 2#8 0#32)) ∧
    (s.enc.phase ≠ .idle → s.enc.phase ≠ .failed → 4 < f →
      exec (.encRun f) s = .next (raised { s with enc := { s.enc with phase := .failed } } 0x11#8 1#8 (BitVec.ofNat 32 f))) ∧
    (s.enc.phase = .finishing ∨ s.enc.phase = .finished → f ≤ 4 → f ≠ 4 ∨ 0 < s.args.a1.toNat →
      exec (.encRun f) s = .next (raised { s with enc := { s.enc with phase := .failed } } 0x11#8 2#8 s.args.a1)) ∧
    (s.enc.phase = .finished → s.enc.out.fifo = [] → s.args.a1 = 0#32 → Writable s s.args.a2.toNat s.args.a3.toNat →
      exec (.encRun 4) s = .next (completed s 0x01#8 0#32 0#32))

/-- R390, R391, R392: ENC_RUN on an open stream, with its buffers readable, writable and apart, completes with OK, DONE or
HAS_MORE_OUTPUT and its byte counts; the totals, ENC_ADLER and, with CRC_TAP, CRC_ACC advance by the bytes consumed; bytes are
left in the FIFO exactly with HAS_MORE_OUTPUT; only the bytes written change in host memory, and no other unit changes. -/
def Obligations.EncRunCompletes : Prop :=
  ∀ (s : State) (f i n o m : Nat), i = s.args.a0.toNat → n = s.args.a1.toNat → o = s.args.a2.toNat → m = s.args.a3.toNat →
    s.enc.phase ≠ .idle → s.enc.phase ≠ .failed → f ≤ 4 →
    (s.enc.phase = .finishing ∨ s.enc.phase = .finished → f = 4 ∧ n = 0) →
    Readable s i n → Writable s o m → Apart i n o m →
    ∃ (t : State) (code : Byte) (c w : Nat), exec (.encRun f) s = .next t ∧
      t = completed { s with mem := t.mem, enc := t.enc, crcAcc := t.crcAcc } code (BitVec.ofNat 32 c) (BitVec.ofNat 32 w) ∧
      c ≤ n ∧ w ≤ m ∧ (code = 0x00#8 ∨ code = 0x01#8 ∨ code = 0x03#8) ∧
      (code = 0x03#8 ↔ t.enc.out.fifo ≠ []) ∧ (code ≠ 0x03#8 → c = n) ∧
      (code = 0x00#8 → t.enc.phase = .ready) ∧ (code = 0x01#8 → f = 4 ∧ t.enc.phase = .finished) ∧
      t.enc.totalIn = s.enc.totalIn + BitVec.ofNat 32 c ∧ t.enc.totalOut = s.enc.totalOut + BitVec.ofNat 32 w ∧
      t.enc.input = s.enc.input ++ bytesAt s i c ∧ t.enc.adler = adlerUpdate s.enc.adler (bytesAt s i c) ∧
      t.crcAcc = (if s.enc.flags.crcTap then crcUpdate s.crcAcc (bytesAt s i c) else s.crcAcc) ∧
      ∀ x, x < o ∨ o + w ≤ x → t.mem.read x = s.mem.read x

/-- R390, R394: a stream that is FINISHING writes the bytes of its FIFO in order, as many as fit, and is FINISHED, with DONE,
once the FIFO is empty. -/
def Obligations.FinishingStreamDrains : Prop :=
  ∀ (s : State) (o m : Nat), s.mem.wf = true → o = s.args.a2.toNat → m = s.args.a3.toNat → s.enc.phase = .finishing →
    s.args.a1 = 0#32 → Writable s o m →
    ∃ t, exec (.encRun 4) s = .next t ∧ Stored s t o (s.enc.out.fifo.take m) ∧
      (s.enc.out.fifo.length ≤ m → t = completed { s with mem := t.mem, enc := { s.enc with
        phase := .finished, out := { s.enc.out with fifo := [] }
        totalOut := s.enc.totalOut + BitVec.ofNat 32 s.enc.out.fifo.length } } 0x01#8 0#32
        (BitVec.ofNat 32 s.enc.out.fifo.length)) ∧
      (m < s.enc.out.fifo.length → t = completed { s with mem := t.mem, enc := { s.enc with
        out := { s.enc.out with fifo := s.enc.out.fifo.drop m }
        totalOut := s.enc.totalOut + BitVec.ofNat 32 m } } 0x03#8 0#32 (BitVec.ofNat 32 m))

/-- R417, R420, R421: the stream of no bytes, at every level, bare and zlib-wrapped: the empty final block, static at levels 1
to 10 and stored at level 0, between the zlib header and trailer with ZLIB. -/
def Obligations.EmptyStreamBytes : Prop :=
  ∀ (s : State) (lv : Nat) (zlib forceStatic filter crcTap probesOvr : Bool) (bs : List Byte), s.mem.wf = true → lv ≤ 10 →
    s.args.a1 = 0#32 → Writable s s.args.a2.toNat s.args.a3.toNat → 11 ≤ s.args.a3.toNat →
    bs = (if zlib then [0x78#8, 0x01#8] else []) ++
      (if lv = 0 then [0x01#8, 0x00#8, 0x00#8, 0xFF#8, 0xFF#8] else [0x03#8, 0x00#8]) ++
      (if zlib then [0x00#8, 0x00#8, 0x00#8, 0x01#8] else []) →
    ∃ t u, exec (.encInit lv zlib forceStatic filter crcTap probesOvr) s = .next t ∧ exec (.encRun 4) t = .next u ∧
      u.status.code = 0x01#8 ∧ u.result0 = 0#32 ∧ u.result1 = BitVec.ofNat 32 bs.length ∧
      Stored s u s.args.a2.toNat bs ∧ u.enc.phase = .finished

/-- R400, R403, R404: a parse decision keeps the records a faithful account of the input: every byte is covered exactly once, and
replaying a block's records gives the bytes they cover back; the block closes as soon as it covers 16384 bytes. -/
def Obligations.ParseCoversTheInput : Prop :=
  ∀ e : Enc, ParseCovers e → e.pos < e.input.length →
    ParseCovers e.step ∧ e.step.input = e.input ∧ e.pos < e.step.pos ∧ (e.blockRaw < 16384 → e.step.blockRaw < 16384)

/-- R407, R408: the costs the block policy compares are exactly the bits the block's fields take. -/
def Obligations.BlockCostsCountTheBits : Prop :=
  ∀ (final : Bool) (toks : List Token),
    fieldsWidth (dynamicFields final toks) = dynamicCost toks ∧ fieldsWidth (staticFields final toks) = staticCost toks

/-- R414, with R338's meaning of the code-length symbols: unpacking what rle_pack packs gives the lengths back, and each repeat
value fits its extra bits. -/
def Obligations.RlePackLosesNothing : Prop :=
  ∀ sizes : List Nat, (∀ l ∈ sizes, l ≤ 15) → unpack (rlePack sizes) [] = sizes ∧
    ∀ item ∈ rlePack sizes, item.1 ≤ 18 ∧ item.2 < 2 ^ repeatWidth item.1

/-- R20, R84, R330: putbits appends the low n bits of its value, bit 0 first, to what the formatter has put out, and leaves
fewer than 8 bits in the BitBuffer. -/
def Obligations.PutbitsAppendsItsBits : Prop :=
  ∀ (o : BitSink) (v n : Nat), cleanSink o → n ≤ 24 →
    sinkBits (o.put (v, n)) = sinkBits o ++ bitsFirst v n ∧ cleanSink (o.put (v, n))

/-! The decoder (46_decoder.md). -/

/-- R440, R441: DEC_INIT opens a stream in each output mode, from any state; a mode of 3, a WRAP window that is no nonzero power
of two, and a window out of range are refused and change nothing. -/
def Obligations.DecInitOpensTheStream : Prop :=
  ∀ (s : State) (zlib crcTap : Bool) (om : Nat),
    (om = 3 → exec (.decInit zlib om crcTap) s = .next (raised s 0x11#8 15#8 3#32)) ∧
    (om = 2 → (¬ ∃ e < 32, s.args.a3.toNat = 2 ^ e) → exec (.decInit zlib om crcTap) s = .next (raised s 0x11#8 8#8 s.args.a3)) ∧
    (om = 1 ∨ (om = 2 ∧ ∃ e < 32, s.args.a3.toNat = 2 ^ e) →
      (0 < s.args.a3.toNat → s.args.a2 = 0#32 → exec (.decInit zlib om crcTap) s = .next (raised s 0x11#8 14#8 0#32)) ∧
      (s.args.a2 ≠ 0#32 → 2 ^ 32 < s.args.a2.toNat + s.args.a3.toNat →
        exec (.decInit zlib om crcTap) s = .next (raised s 0x11#8 3#8 s.args.a2))) ∧
    (∀ (mode : OMode) (wb ws : Word), (om = 0 ∧ mode = .stream ∧ wb = 0#32 ∧ ws = 0x8000#32) ∨
        (om = 1 ∧ mode = .oneshot ∧ wb = s.args.a2 ∧ ws = s.args.a3) ∨
        (om = 2 ∧ mode = .wrap ∧ wb = s.args.a2 ∧ ws = s.args.a3 ∧ ∃ e < 32, ws.toNat = 2 ^ e) →
      (om = 0 ∨ ((0 < s.args.a3.toNat → s.args.a2 ≠ 0#32) ∧ s.args.a2.toNat + s.args.a3.toNat ≤ 2 ^ 32)) →
      exec (.decInit zlib om crcTap) s = .next (completed { s with dec := { Dec.reset with
        phase := if zlib then .zhdr else .bhdr, zlib := zlib, omode := mode, crcTap := crcTap, wbase := wb, wsize := ws } }
        0x00#8 0#32 0#32))

/-- R445, R446, R448: DEC_RUN without an open stream: NO_STREAM, the saved failure again, or DONE again, with results 0. -/
def Obligations.DecRunWithoutAnOpenStream : Prop :=
  ∀ s : State,
    (s.dec.phase = .idle → exec .decRun s = .next (raised s 0x12#8 1#8 0#32)) ∧
    (s.dec.phase = .failed → 0x10 ≤ s.dec.fcode.toNat →
      exec .decRun s = .next (raised s s.dec.fcode s.dec.fcause s.dec.finfo)) ∧
    (s.dec.phase = .done → exec .decRun s = .next (completed s 0x01#8 0#32 0#32))

/-- R445, R446, R447, R486: DEC_RUN on an open stream, with its buffers readable, writable and apart, completes with DONE, NEEDS_INPUT,
HAS_MORE_OUTPUT or CORRUPT_DATA and its byte counts; the totals advance by them; all input is consumed with NEEDS_INPUT; a
corrupt stream is FAILED, with its record and the input offset; DEC_ADLER and, with CRC_TAP, CRC_ACC advance by the bytes produced,
which lie at the call's output or in the stream's window from its position on (in a ring, those not written over); only the
output range changes in host memory, and no other unit and no part of slot 3 changes. -/
def Obligations.DecRunCompletes : Prop :=
  ∀ (s : State) (n : Nat), n = s.args.a1.toNat → openStream s.dec → Readable s s.args.a0.toNat n →
    decReady s n s.args.a2.toNat s.args.a3.toNat →
    ∃ (t : State) (code cause : Byte) (info : Word) (c w : Nat) (made : List Byte), exec .decRun s = .next t ∧
      t = failedWith { s with mem := t.mem, dec := t.dec, ddict := t.ddict, crcAcc := t.crcAcc
                              slots := { t.slots with s3 := s.slots.s3 } } code cause info (BitVec.ofNat 32 c) (BitVec.ofNat 32 w) ∧
      c ≤ n ∧ w ≤ decLimit s ∧ (code = 0x01#8 ∨ code = 0x02#8 ∨ code = 0x03#8 ∨ code = 0x21#8) ∧
      (code = 0x01#8 ↔ t.dec.phase = .done) ∧ (code = 0x02#8 → c = n) ∧ (code = 0x21#8 ↔ t.dec.phase = .failed) ∧
      (code ≠ 0x21#8 → cause = 0#8 ∧ info = 0#32) ∧
      (code = 0x21#8 → t.dec.fcode = code ∧ t.dec.fcause = cause ∧ t.dec.finfo = info ∧
        info = s.dec.totalIn + BitVec.ofNat 32 c) ∧
      t.dec.totalIn = s.dec.totalIn + BitVec.ofNat 32 c ∧ t.dec.totalOut = s.dec.totalOut + BitVec.ofNat 32 w ∧
      made.length = w ∧ t.dec.adler = adlerUpdate s.dec.adler made ∧
      t.crcAcc = (if s.dec.crcTap then crcUpdate s.crcAcc made else s.crcAcc) ∧
      (s.mem.wf = true → ∀ k b, made[k]? = some b → keptOutput s.dec w k → t.mem.read (outputAt s.dec s.args.a2.toNat k) = b) ∧
      ∀ x, x < (decRange s).1 ∨ (decRange s).1 + (decRange s).2 ≤ x → t.mem.read x = s.mem.read x

/-- R460, R480, R481, R486: in STREAM mode, the bytes of a final stored block of a bare stream are copied from the input to the
output and to DDICT, and the stream is DONE; position, history, checksums and totals advance by the bytes. -/
def Obligations.StoredBlockIsCopied : Prop :=
  ∀ (s : State) (i n o : Nat) (bs : List Byte), Inv s → i = s.args.a0.toNat → n = s.args.a1.toNat → o = s.args.a2.toNat →
    s.dec.phase = .storedCopy → s.dec.omode = .stream → s.dec.zlib = false → s.dec.bfinal = true → s.dec.nbits = 0 →
    s.dec.bitbuf = 0#32 → s.dec.remaining = n → n ≤ s.args.a3.toNat → Readable s i n →
    Writable s o s.args.a3.toNat → Apart i n o s.args.a3.toNat → bs = bytesAt s i n →
    ∃ t, exec .decRun s = .next t ∧ Stored s t o bs ∧
      t = completed { s with mem := t.mem, ddict := t.ddict
                             crcAcc := if s.dec.crcTap then crcUpdate s.crcAcc bs else s.crcAcc
                             dec := { s.dec with
                               phase := .done, remaining := 0, opos := (s.dec.opos + n) % 32768
                               hist := min (s.dec.hist + n) 32768, adler := adlerUpdate s.dec.adler bs
                               totalIn := s.dec.totalIn + s.args.a1, totalOut := s.dec.totalOut + s.args.a1 } }
        0x01#8 s.args.a1 s.args.a1 ∧
      ∀ k b, bs[k]? = some b → n ≤ k + 32768 → ddictRead t.ddict ((s.dec.opos + k) % 32768) = b

/-- R479, R480: in every output mode, the work of COPY on a match whose distance the history reaches and whose length the output
has room for produces exactly its bytes: each equals the byte its distance back, in the history before the copy or among the
bytes the copy itself made. They go to the output and, in STREAM mode, to DDICT (the last 32768 of them are there), the position
and history advance by them, the checksums too (R486), and no other byte of host memory changes. -/
def Obligations.BackReferenceRepeatsTheOutput : Prop :=
  ∀ (r : Run) (i n o m : Nat), r.s.mem.wf = true → rising r.s.ddict = true → copyReady r.s o m r.w →
    ∃ (r' : Run) (made : List Byte), decWork i n o m .copy r = .ok () r' ∧ made.length = r.s.dec.mlen ∧
      (∀ k b, made[k]? = some b →
        b = if k < r.s.dec.mdist then historyByte r.s (r.s.dec.mdist - k) else made.getD (k - r.s.dec.mdist) 0#8) ∧
      r'.c = r.c ∧ r'.w = r.w + r.s.dec.mlen ∧
      r'.s = { r.s with
        mem := r'.s.mem, ddict := r'.s.ddict
        crcAcc := if r.s.dec.crcTap then crcUpdate r.s.crcAcc made else r.s.crcAcc
        dec := { r.s.dec with
          phase := .dataSym, mlen := 0, opos := positionAfter r.s.dec r.s.dec.mlen
          hist := min (r.s.dec.hist + r.s.dec.mlen) 32768, adler := adlerUpdate r.s.dec.adler made } } ∧
      (∀ k b, made[k]? = some b → keptOutput r.s.dec r.s.dec.mlen k → r'.s.mem.read (outputAt r.s.dec (o + r.w) k) = b) ∧
      (∀ x, (∀ k < r.s.dec.mlen, outputAt r.s.dec (o + r.w) k ≠ x) → r'.s.mem.read x = r.s.mem.read x) ∧
      (r.s.dec.omode = .stream →
        ∀ k b, made[k]? = some b → r.s.dec.mlen ≤ k + 32768 → ddictRead r'.s.ddict ((r.s.dec.opos + k) % 32768) = b) ∧
      (r.s.dec.omode ≠ .stream → r'.s.ddict = r.s.ddict)

/-- R450, R452, R330: take(k) takes the next k bits of the stream, the first as bit 0 of the value, and leaves the rest; it
pulls a byte only when the bits held do not suffice. -/
def Obligations.TakeReadsTheNextBits : Prop :=
  ∀ (r : Run) (i n k : Nat), k ≤ 32 → r.s.dec.nbits ≤ 7 → r.s.dec.bitbuf.toNat < 2 ^ r.s.dec.nbits →
    (r.s.dec.nbits = 0 ∨ k ≤ 24) → r.c ≤ n → Readable r.s i n → k ≤ r.s.dec.nbits + 8 * (n - r.c) →
    ∃ r' v, Machine.take i n k r = .ok v r' ∧ v = bitsValue ((bitsLeftToTake i n r).take k) ∧
      bitsLeftToTake i n r' = (bitsLeftToTake i n r).drop k ∧ r'.s.dec.nbits ≤ 7 ∧
      r'.s.mem = r.s.mem ∧ r'.w = r.w ∧ r'.s.dec.phase = r.s.dec.phase

/-! The ZIP record unit (47_zip_records.md). -/

/-- R512: ZIP_NAME_CHECK accepts a name with no leading slash, no backslash and no colon, and reports the leading slash first,
then the lowest index of the two others. -/
def Obligations.NameCheckFindsTheFirstBadByte : Prop :=
  ∀ (s : State) (n : Nat) (name : List Byte), n = s.args.a1.toNat →
    (0xFFFF < n → exec .zipNameCheck s = .next (raised s 0x11#8 12#8 s.args.a1)) ∧
    (n ≤ 0xFFFF → Readable s s.args.a0.toNat n → name = bytesAt s s.args.a0.toNat n →
      (name.head? = some 0x2F#8 → exec .zipNameCheck s = .next (raised s 0x33#8 1#8 0#32)) ∧
      (name.head? ≠ some 0x2F#8 →
        ((∀ b ∈ name, b ≠ 0x5C#8 ∧ b ≠ 0x3A#8) → exec .zipNameCheck s = .next (completed s 0x00#8 s.args.a1 0#32)) ∧
        ∀ k, (∀ b ∈ name.take k, b ≠ 0x5C#8 ∧ b ≠ 0x3A#8) →
          (name[k]? = some 0x5C#8 → exec .zipNameCheck s = .next (raised s 0x33#8 2#8 (BitVec.ofNat 32 k))) ∧
          (name[k]? = some 0x3A#8 → exec .zipNameCheck s = .next (raised s 0x33#8 3#8 (BitVec.ofNat 32 k)))))

/-- R514: ZIP_LH_WRITE writes the padding, the local header of the entry registers, the name and the extra field, and sets
ZF_LHOFS to the header's archive offset. -/
def Obligations.LhWriteStoresTheHeader : Prop :=
  ∀ (s : State) (align pad : Nat) (bs : List Byte), s.mem.wf = true → (align ≤ 1 ∨ ∃ e < 16, align = 2 ^ e) →
    s.zf.method = 0#16 ∨ s.zf.method = 8#16 →
    (align ≤ 1 → pad = 0) → (1 < align → pad < align ∧ (s.args.a3.toNat + pad) % align = 0) →
    bs = List.replicate pad 0#8 ++ localHeader s.zf ++ bytesAt s s.args.a1.toNat s.zf.nameLen.toNat ++
      bytesAt s s.args.a2.toNat s.zf.extraLen.toNat →
    Readable s s.args.a1.toNat s.zf.nameLen.toNat → Readable s s.args.a2.toNat s.zf.extraLen.toNat →
    Writable s s.args.a0.toNat bs.length → Apart s.args.a1.toNat s.zf.nameLen.toNat s.args.a0.toNat bs.length →
    Apart s.args.a2.toNat s.zf.extraLen.toNat s.args.a0.toNat bs.length → s.args.a3.toNat + pad < 0xFFFFFFFF →
    s.zf.csize ≠ 0xFFFFFFFF#32 → s.zf.usize ≠ 0xFFFFFFFF#32 →
    ∃ t, exec (.zipLhWrite align) s = .next t ∧ Stored s t s.args.a0.toNat bs ∧
      t = completed { s with mem := t.mem, zf := { s.zf with lhOfs := s.args.a3 + BitVec.ofNat 32 pad } } 0x00#8
        (BitVec.ofNat 32 pad) (BitVec.ofNat 32 bs.length)

/-- R518, R522: ZIP_CD_WRITE writes the central-directory record of the entry registers with the name, the extra field and the
comment; ZIP_EOCD_WRITE writes the end record of the end registers with the archive comment. -/
def Obligations.CdAndEocdWritesStoreTheRecords : Prop :=
  ∀ (s : State) (bs : List Byte), s.mem.wf = true → Writable s s.args.a0.toNat bs.length →
    (s.zf.method = 0#16 ∨ s.zf.method = 8#16 →
      bs = centralRecord s.zf ++ bytesAt s s.args.a1.toNat s.zf.nameLen.toNat ++
        bytesAt s s.args.a2.toNat s.zf.extraLen.toNat ++ bytesAt s s.args.a3.toNat s.zf.commentLen.toNat →
      Readable s s.args.a1.toNat s.zf.nameLen.toNat → Readable s s.args.a2.toNat s.zf.extraLen.toNat →
      Readable s s.args.a3.toNat s.zf.commentLen.toNat →
      Apart s.args.a1.toNat s.zf.nameLen.toNat s.args.a0.toNat bs.length →
      Apart s.args.a2.toNat s.zf.extraLen.toNat s.args.a0.toNat bs.length →
      Apart s.args.a3.toNat s.zf.commentLen.toNat s.args.a0.toNat bs.length →
      s.zf.csize ≠ 0xFFFFFFFF#32 → s.zf.usize ≠ 0xFFFFFFFF#32 → s.zf.lhOfs ≠ 0xFFFFFFFF#32 →
      ∃ t, exec .zipCdWrite s = .next t ∧ Stored s t s.args.a0.toNat bs ∧
        t = completed { s with mem := t.mem } 0x00#8 0#32 (BitVec.ofNat 32 bs.length)) ∧
    (bs = endRecord s.ze ++ bytesAt s s.args.a1.toNat s.ze.commentLen.toNat →
      Readable s s.args.a1.toNat s.ze.commentLen.toNat →
      Apart s.args.a1.toNat s.ze.commentLen.toNat s.args.a0.toNat bs.length → s.ze.nent.toNat < 0xFFFF →
      s.ze.cdSize ≠ 0xFFFFFFFF#32 → s.ze.cdOfs ≠ 0xFFFFFFFF#32 →
      ∃ t, exec .zipEocdWrite s = .next t ∧ Stored s t s.args.a0.toNat bs ∧
        t = completed { s with mem := t.mem } 0x00#8 0#32 (BitVec.ofNat 32 bs.length))

/-- R526: ZIP_EOCD_FIND loads the end registers from the highest end record in the searched tail; with no signature there it
completes with NO_EOCD. `arc q` is the host address of archive offset `q`. -/
def Obligations.EocdFindTakesTheHighestRecord : Prop :=
  ∀ (s : State) (len sz lo : Nat) (arc : Nat → Nat), len = s.args.a1.toNat → sz = s.args.a2.toNat → len ≤ sz → 22 ≤ len →
    Readable s s.args.a0.toNat len → lo = max (sz - len) (sz - 65557) → (∀ q, arc q = s.args.a0.toNat + (q - (sz - len))) →
    ((∀ q, lo ≤ q → q + 22 ≤ sz → full s (arc q) ≠ 0x06054B50) →
      exec .zipEocdFind s = .next (raised s 0x32#8 1#8 0#32)) ∧
    ∀ p, lo ≤ p → p + 22 ≤ sz → full s (arc p) = 0x06054B50 →
      (∀ q, p < q → q + 22 ≤ sz → full s (arc q) ≠ 0x06054B50) → p + 22 + half s (arc p + 20) ≤ sz →
      half s (arc p + 4) = 0 → half s (arc p + 6) = 0 → half s (arc p + 8) = half s (arc p + 10) →
      half s (arc p + 10) ≠ 0xFFFF → full s (arc p + 12) ≠ 0xFFFFFFFF → full s (arc p + 16) ≠ 0xFFFFFFFF →
      46 * half s (arc p + 10) ≤ full s (arc p + 12) → full s (arc p + 16) + full s (arc p + 12) ≤ p →
      exec .zipEocdFind s = .next (completed { s with ze := endAt s (arc p) p } 0x00#8 (BitVec.ofNat 32 p)
        (BitVec.ofNat 32 (half s (arc p + 10))))

/-- R530: ZIP_CD_PARSE loads the entry registers from a record that passes every check, and changes none of them when the
signature is wrong, the entry is encrypted, or fewer than 46 bytes are available. -/
def Obligations.CdParseLoadsTheEntry : Prop :=
  ∀ (s : State) (r av sz : Nat), r = s.args.a0.toNat → av = s.args.a1.toNat → sz = s.args.a2.toNat → Readable s r av →
    (av < 46 → exec .zipCdParse s = .next (raised s 0x30#8 4#8 s.args.a0)) ∧
    (46 ≤ av → full s r ≠ 0x02014B50 → exec .zipCdParse s = .next (raised s 0x30#8 1#8 s.args.a0)) ∧
    (46 ≤ av → full s r = 0x02014B50 → 46 + half s (r + 28) + half s (r + 30) + half s (r + 32) ≤ av →
      half s (r + 34) = 0 → (half s (r + 8)).testBit 0 = true ∨ (half s (r + 8)).testBit 6 = true →
      exec .zipCdParse s = .next (raised s 0x31#8 3#8 s.args.a0)) ∧
    (46 ≤ av → goodCentral s r av sz → exec .zipCdParse s = .next (completed { s with zf := entryAt s r } 0x00#8
      (BitVec.ofNat 32 (46 + half s (r + 28) + half s (r + 30) + half s (r + 32))) (s.args.a0 + 46#32)))

/-- R540: ZIP_LH_CHECK accepts a local header that agrees with the entry registers and the listed name, and gives the archive
offset of the entry's data and the header's length; with flag bit 3 set, the CRC and the sizes may differ. -/
def Obligations.LhCheckAcceptsAMatchingHeader : Prop :=
  ∀ (s : State) (h av sz cn n ofs : Nat), h = s.args.a0.toNat → av = s.args.a1.toNat → sz = s.args.a2.toNat →
    cn = s.args.a3.toNat → n = s.zf.nameLen.toNat → Readable s h av → Readable s cn n → 30 + n ≤ av →
    full s h = 0x04034B50 → half s (h + 8) = s.zf.method.toNat → half s (h + 26) = n →
    bytesAt s (h + 30) n = bytesAt s cn n →
    (s.zf.flags.getLsbD 3 = true ∨ (full s (h + 14) = s.zf.crc.toNat ∧ full s (h + 18) = s.zf.csize.toNat ∧
      full s (h + 22) = s.zf.usize.toNat)) →
    s.zf.method = 0#16 ∨ s.zf.method = 8#16 → ofs = s.zf.lhOfs.toNat + 30 + n + half s (h + 28) →
    ofs + s.zf.csize.toNat ≤ sz →
    exec .zipLhCheck s = .next (completed s 0x00#8 (BitVec.ofNat 32 ofs) (BitVec.ofNat 32 (30 + n + half s (h + 28))))

/-- R546: ZIP_NAME_CMP compares two names byte by byte, unsigned, folding A to Z unless CASE_SENSITIVE: equal names give 0 and 0,
the first difference gives the order, and a proper prefix lies below. -/
def Obligations.NameCmpOrdersNames : Prop :=
  ∀ (s : State) (cs : Bool) (A B : List Nat), s.args.a1.toNat ≤ 0xFFFF → s.args.a3.toNat ≤ 0xFFFF →
    Readable s s.args.a0.toNat s.args.a1.toNat → Readable s s.args.a2.toNat s.args.a3.toNat →
    A = (bytesAt s s.args.a0.toNat s.args.a1.toNat).map (folded cs) →
    B = (bytesAt s s.args.a2.toNat s.args.a3.toNat).map (folded cs) →
    (A = B → exec (.zipNameCmp cs) s = .next (completed s 0x00#8 0#32 0#32)) ∧
    (∀ p x xs, A = p → B = p ++ x :: xs → exec (.zipNameCmp cs) s = .next (completed s 0x00#8 1#32 0xFFFFFFFF#32)) ∧
    (∀ p x xs, A = p ++ x :: xs → B = p → exec (.zipNameCmp cs) s = .next (completed s 0x00#8 1#32 1#32)) ∧
    ∀ p x y xs ys, A = p ++ x :: xs → B = p ++ y :: ys →
      (x < y → exec (.zipNameCmp cs) s = .next (completed s 0x00#8 1#32 0xFFFFFFFF#32)) ∧
      (y < x → exec (.zipNameCmp cs) s = .next (completed s 0x00#8 1#32 1#32))

/-- R550: ZIP_VERIFY compares the size first, then the CRC; its encoding. -/
def Obligations.VerifyChecksSizeThenCrc : Prop :=
  (∀ w : Word, decode w = .ok .zipVerify ↔ w = 0x00000068#32) ∧
  ∀ s : State,
    (s.args.a0 ≠ s.zf.usize → exec .zipVerify s = .next (raised s 0x24#8 1#8 s.args.a0)) ∧
    (s.args.a0 = s.zf.usize → s.crcAcc ≠ s.zf.crc → exec .zipVerify s = .next (raised s 0x23#8 1#8 s.crcAcc)) ∧
    (s.args.a0 = s.zf.usize → s.crcAcc = s.zf.crc → exec .zipVerify s = .next (completed s 0x00#8 0#32 0#32))

/-- R511, R515, R518, R530: parsing the central-directory record that ZIP_CD_WRITE wrote gives the entry registers back, with 0
as the disk number. -/
def Obligations.CentralRecordRoundTrip : Prop :=
  ∀ (s t u : State) (total : Nat) (sz : Word), s.mem.wf = true → exec .zipCdWrite s = .next t → t.status.code = 0x00#8 →
    total = 46 + s.zf.nameLen.toNat + s.zf.extraLen.toNat + s.zf.commentLen.toNat →
    s.zf.flags.getLsbD 0 = false → s.zf.flags.getLsbD 5 = false → s.zf.flags.getLsbD 6 = false →
    (s.zf.method = 0#16 → s.zf.usize = s.zf.csize) → (s.zf.usize ≠ 0#32 → s.zf.csize ≠ 0#32) →
    u = { t with args := { t.args with a1 := BitVec.ofNat 32 total, a2 := sz } } →
    s.zf.lhOfs.toNat + 30 + s.zf.csize.toNat ≤ sz.toNat → Readable s s.args.a0.toNat total →
    exec .zipCdParse u = .next (completed { u with zf := { s.zf with diskStart := 0#16 } } 0x00#8 (BitVec.ofNat 32 total)
      (s.args.a0 + 46#32))
end

