-- ==== Sys2Proof/Laws/State.lean ====
section
/-! SUPPORT. What each update of the state leaves in each field: one lemma per field per update, so that no proof unfolds a
record update. -/

namespace Sys2Proof.Machine

/-! poke -/

@[simp] theorem State.poke_cmd (s : State) (a : Nat) (b : Byte) : (s.poke a b).cmd = s.cmd := rfl
@[simp] theorem State.poke_status (s : State) (a : Nat) (b : Byte) : (s.poke a b).status = s.status := rfl
@[simp] theorem State.poke_irqEn (s : State) (a : Nat) (b : Byte) : (s.poke a b).irqEn = s.irqEn := rfl
@[simp] theorem State.poke_errCause (s : State) (a : Nat) (b : Byte) : (s.poke a b).errCause = s.errCause := rfl
@[simp] theorem State.poke_errInfo (s : State) (a : Nat) (b : Byte) : (s.poke a b).errInfo = s.errInfo := rfl
@[simp] theorem State.poke_result0 (s : State) (a : Nat) (b : Byte) : (s.poke a b).result0 = s.result0 := rfl
@[simp] theorem State.poke_result1 (s : State) (a : Nat) (b : Byte) : (s.poke a b).result1 = s.result1 := rfl
@[simp] theorem State.poke_args (s : State) (a : Nat) (b : Byte) : (s.poke a b).args = s.args := rfl
@[simp] theorem State.poke_crcAcc (s : State) (a : Nat) (b : Byte) : (s.poke a b).crcAcc = s.crcAcc := rfl
@[simp] theorem State.poke_adlerAcc (s : State) (a : Nat) (b : Byte) : (s.poke a b).adlerAcc = s.adlerAcc := rfl
@[simp] theorem State.poke_zf (s : State) (a : Nat) (b : Byte) : (s.poke a b).zf = s.zf := rfl
@[simp] theorem State.poke_ze (s : State) (a : Nat) (b : Byte) : (s.poke a b).ze = s.ze := rfl
@[simp] theorem State.poke_slots (s : State) (a : Nat) (b : Byte) : (s.poke a b).slots = s.slots := rfl
@[simp] theorem State.poke_enc (s : State) (a : Nat) (b : Byte) : (s.poke a b).enc = s.enc := rfl
@[simp] theorem State.poke_dec (s : State) (a : Nat) (b : Byte) : (s.poke a b).dec = s.dec := rfl
@[simp] theorem State.poke_ddict (s : State) (a : Nat) (b : Byte) : (s.poke a b).ddict = s.ddict := rfl
@[simp] theorem State.poke_mem (s : State) (a : Nat) (b : Byte) : (s.poke a b).mem = s.mem.write a b := rfl
@[simp] theorem State.poke_plat (s : State) (a : Nat) (b : Byte) : (s.poke a b).plat = s.plat := rfl
@[simp] theorem State.poke_hostq (s : State) (a : Nat) (b : Byte) : (s.poke a b).hostq = s.hostq := rfl
@[simp] theorem State.poke_busData (s : State) (a : Nat) (b : Byte) : (s.poke a b).busData = s.busData := rfl

/-! complete -/

@[simp] theorem State.complete_cmd (s : State) (code cause : Byte) (info r0 r1 : Word) :
    (s.complete code cause info r0 r1).cmd = s.cmd := rfl
@[simp] theorem State.complete_status (s : State) (code cause : Byte) (info r0 r1 : Word) :
    (s.complete code cause info r0 r1).status = { code := code, busy := false, cmpl := true, ovr := s.status.ovr, lastOpc := s.cmd.setWidth 8 } := rfl
@[simp] theorem State.complete_irqEn (s : State) (code cause : Byte) (info r0 r1 : Word) :
    (s.complete code cause info r0 r1).irqEn = s.irqEn := rfl
@[simp] theorem State.complete_errCause (s : State) (code cause : Byte) (info r0 r1 : Word) :
    (s.complete code cause info r0 r1).errCause = if isError code then cause else 0#8 := rfl
@[simp] theorem State.complete_errInfo (s : State) (code cause : Byte) (info r0 r1 : Word) :
    (s.complete code cause info r0 r1).errInfo = if isError code then info else 0#32 := rfl
@[simp] theorem State.complete_result0 (s : State) (code cause : Byte) (info r0 r1 : Word) :
    (s.complete code cause info r0 r1).result0 = r0 := rfl
@[simp] theorem State.complete_result1 (s : State) (code cause : Byte) (info r0 r1 : Word) :
    (s.complete code cause info r0 r1).result1 = r1 := rfl
@[simp] theorem State.complete_args (s : State) (code cause : Byte) (info r0 r1 : Word) :
    (s.complete code cause info r0 r1).args = s.args := rfl
@[simp] theorem State.complete_crcAcc (s : State) (code cause : Byte) (info r0 r1 : Word) :
    (s.complete code cause info r0 r1).crcAcc = s.crcAcc := rfl
@[simp] theorem State.complete_adlerAcc (s : State) (code cause : Byte) (info r0 r1 : Word) :
    (s.complete code cause info r0 r1).adlerAcc = s.adlerAcc := rfl
@[simp] theorem State.complete_zf (s : State) (code cause : Byte) (info r0 r1 : Word) :
    (s.complete code cause info r0 r1).zf = s.zf := rfl
@[simp] theorem State.complete_ze (s : State) (code cause : Byte) (info r0 r1 : Word) :
    (s.complete code cause info r0 r1).ze = s.ze := rfl
@[simp] theorem State.complete_slots (s : State) (code cause : Byte) (info r0 r1 : Word) :
    (s.complete code cause info r0 r1).slots = s.slots := rfl
@[simp] theorem State.complete_enc (s : State) (code cause : Byte) (info r0 r1 : Word) :
    (s.complete code cause info r0 r1).enc = s.enc := rfl
@[simp] theorem State.complete_dec (s : State) (code cause : Byte) (info r0 r1 : Word) :
    (s.complete code cause info r0 r1).dec = s.dec := rfl
@[simp] theorem State.complete_ddict (s : State) (code cause : Byte) (info r0 r1 : Word) :
    (s.complete code cause info r0 r1).ddict = s.ddict := rfl
@[simp] theorem State.complete_mem (s : State) (code cause : Byte) (info r0 r1 : Word) :
    (s.complete code cause info r0 r1).mem = s.mem := rfl
@[simp] theorem State.complete_plat (s : State) (code cause : Byte) (info r0 r1 : Word) :
    (s.complete code cause info r0 r1).plat = s.plat := rfl
@[simp] theorem State.complete_hostq (s : State) (code cause : Byte) (info r0 r1 : Word) :
    (s.complete code cause info r0 r1).hostq = s.hostq := rfl
@[simp] theorem State.complete_busData (s : State) (code cause : Byte) (info r0 r1 : Word) :
    (s.complete code cause info r0 r1).busData = s.busData := rfl

/-! launch -/

@[simp] theorem State.launch_cmd (s : State) (w : Word) : (s.launch w).cmd = w := rfl
@[simp] theorem State.launch_status (s : State) (w : Word) :
    (s.launch w).status = { s.status with busy := true, cmpl := false } := rfl
@[simp] theorem State.launch_irqEn (s : State) (w : Word) : (s.launch w).irqEn = s.irqEn := rfl
@[simp] theorem State.launch_errCause (s : State) (w : Word) : (s.launch w).errCause = s.errCause := rfl
@[simp] theorem State.launch_errInfo (s : State) (w : Word) : (s.launch w).errInfo = s.errInfo := rfl
@[simp] theorem State.launch_result0 (s : State) (w : Word) : (s.launch w).result0 = s.result0 := rfl
@[simp] theorem State.launch_result1 (s : State) (w : Word) : (s.launch w).result1 = s.result1 := rfl
@[simp] theorem State.launch_args (s : State) (w : Word) : (s.launch w).args = s.args := rfl
@[simp] theorem State.launch_crcAcc (s : State) (w : Word) : (s.launch w).crcAcc = s.crcAcc := rfl
@[simp] theorem State.launch_adlerAcc (s : State) (w : Word) : (s.launch w).adlerAcc = s.adlerAcc := rfl
@[simp] theorem State.launch_zf (s : State) (w : Word) : (s.launch w).zf = s.zf := rfl
@[simp] theorem State.launch_ze (s : State) (w : Word) : (s.launch w).ze = s.ze := rfl
@[simp] theorem State.launch_slots (s : State) (w : Word) : (s.launch w).slots = s.slots := rfl
@[simp] theorem State.launch_enc (s : State) (w : Word) : (s.launch w).enc = s.enc := rfl
@[simp] theorem State.launch_dec (s : State) (w : Word) : (s.launch w).dec = s.dec := rfl
@[simp] theorem State.launch_ddict (s : State) (w : Word) : (s.launch w).ddict = s.ddict := rfl
@[simp] theorem State.launch_mem (s : State) (w : Word) : (s.launch w).mem = s.mem := rfl
@[simp] theorem State.launch_plat (s : State) (w : Word) : (s.launch w).plat = s.plat := rfl
@[simp] theorem State.launch_hostq (s : State) (w : Word) : (s.launch w).hostq = s.hostq := rfl
@[simp] theorem State.launch_busData (s : State) (w : Word) : (s.launch w).busData = s.busData := rfl

/-! launchNow -/

@[simp] theorem State.launchNow_cmd (s : State) (w : Word) : (s.launchNow w).cmd = w := rfl
@[simp] theorem State.launchNow_status (s : State) (w : Word) :
    (s.launchNow w).status = { s.status with busy := true, cmpl := false } := rfl
@[simp] theorem State.launchNow_irqEn (s : State) (w : Word) : (s.launchNow w).irqEn = s.irqEn := rfl
@[simp] theorem State.launchNow_errCause (s : State) (w : Word) : (s.launchNow w).errCause = s.errCause := rfl
@[simp] theorem State.launchNow_errInfo (s : State) (w : Word) : (s.launchNow w).errInfo = s.errInfo := rfl
@[simp] theorem State.launchNow_result0 (s : State) (w : Word) : (s.launchNow w).result0 = s.result0 := rfl
@[simp] theorem State.launchNow_result1 (s : State) (w : Word) : (s.launchNow w).result1 = s.result1 := rfl
@[simp] theorem State.launchNow_args (s : State) (w : Word) : (s.launchNow w).args = s.args := rfl
@[simp] theorem State.launchNow_crcAcc (s : State) (w : Word) : (s.launchNow w).crcAcc = s.crcAcc := rfl
@[simp] theorem State.launchNow_adlerAcc (s : State) (w : Word) : (s.launchNow w).adlerAcc = s.adlerAcc := rfl
@[simp] theorem State.launchNow_zf (s : State) (w : Word) : (s.launchNow w).zf = s.zf := rfl
@[simp] theorem State.launchNow_ze (s : State) (w : Word) : (s.launchNow w).ze = s.ze := rfl
@[simp] theorem State.launchNow_slots (s : State) (w : Word) : (s.launchNow w).slots = s.slots := rfl
@[simp] theorem State.launchNow_enc (s : State) (w : Word) : (s.launchNow w).enc = s.enc := rfl
@[simp] theorem State.launchNow_dec (s : State) (w : Word) : (s.launchNow w).dec = s.dec := rfl
@[simp] theorem State.launchNow_ddict (s : State) (w : Word) : (s.launchNow w).ddict = s.ddict := rfl
@[simp] theorem State.launchNow_mem (s : State) (w : Word) : (s.launchNow w).mem = s.mem := rfl
@[simp] theorem State.launchNow_plat (s : State) (w : Word) : (s.launchNow w).plat = s.plat := rfl
@[simp] theorem State.launchNow_hostq (s : State) (w : Word) : (s.launchNow w).hostq = [] := rfl
@[simp] theorem State.launchNow_busData (s : State) (w : Word) : (s.launchNow w).busData = s.busData := rfl

/-! applyReset -/

@[simp] theorem State.applyReset_cmd (s : State) : (s.applyReset).cmd = State.reset.cmd := rfl
@[simp] theorem State.applyReset_status (s : State) : (s.applyReset).status = State.reset.status := rfl
@[simp] theorem State.applyReset_irqEn (s : State) : (s.applyReset).irqEn = State.reset.irqEn := rfl
@[simp] theorem State.applyReset_errCause (s : State) : (s.applyReset).errCause = State.reset.errCause := rfl
@[simp] theorem State.applyReset_errInfo (s : State) : (s.applyReset).errInfo = State.reset.errInfo := rfl
@[simp] theorem State.applyReset_result0 (s : State) : (s.applyReset).result0 = State.reset.result0 := rfl
@[simp] theorem State.applyReset_result1 (s : State) : (s.applyReset).result1 = State.reset.result1 := rfl
@[simp] theorem State.applyReset_args (s : State) : (s.applyReset).args = State.reset.args := rfl
@[simp] theorem State.applyReset_crcAcc (s : State) : (s.applyReset).crcAcc = State.reset.crcAcc := rfl
@[simp] theorem State.applyReset_adlerAcc (s : State) : (s.applyReset).adlerAcc = State.reset.adlerAcc := rfl
@[simp] theorem State.applyReset_zf (s : State) : (s.applyReset).zf = State.reset.zf := rfl
@[simp] theorem State.applyReset_ze (s : State) : (s.applyReset).ze = State.reset.ze := rfl
@[simp] theorem State.applyReset_slots (s : State) : (s.applyReset).slots = State.reset.slots := rfl
@[simp] theorem State.applyReset_enc (s : State) : (s.applyReset).enc = State.reset.enc := rfl
@[simp] theorem State.applyReset_dec (s : State) : (s.applyReset).dec = State.reset.dec := rfl
@[simp] theorem State.applyReset_ddict (s : State) : (s.applyReset).ddict = State.reset.ddict := rfl
@[simp] theorem State.applyReset_mem (s : State) : (s.applyReset).mem = s.mem := rfl
@[simp] theorem State.applyReset_plat (s : State) : (s.applyReset).plat = s.plat := rfl
@[simp] theorem State.applyReset_hostq (s : State) : (s.applyReset).hostq = s.hostq := rfl
@[simp] theorem State.applyReset_busData (s : State) : (s.applyReset).busData = s.busData := rfl

/-! resetByCommand -/

@[simp] theorem State.resetByCommand_cmd (s : State) : (s.resetByCommand).cmd = 0x00000001#32 := rfl
@[simp] theorem State.resetByCommand_status (s : State) : (s.resetByCommand).status = State.reset.status := rfl
@[simp] theorem State.resetByCommand_irqEn (s : State) : (s.resetByCommand).irqEn = s.irqEn := rfl
@[simp] theorem State.resetByCommand_errCause (s : State) : (s.resetByCommand).errCause = State.reset.errCause := rfl
@[simp] theorem State.resetByCommand_errInfo (s : State) : (s.resetByCommand).errInfo = State.reset.errInfo := rfl
@[simp] theorem State.resetByCommand_result0 (s : State) : (s.resetByCommand).result0 = State.reset.result0 := rfl
@[simp] theorem State.resetByCommand_result1 (s : State) : (s.resetByCommand).result1 = State.reset.result1 := rfl
@[simp] theorem State.resetByCommand_args (s : State) : (s.resetByCommand).args = State.reset.args := rfl
@[simp] theorem State.resetByCommand_crcAcc (s : State) : (s.resetByCommand).crcAcc = State.reset.crcAcc := rfl
@[simp] theorem State.resetByCommand_adlerAcc (s : State) : (s.resetByCommand).adlerAcc = State.reset.adlerAcc := rfl
@[simp] theorem State.resetByCommand_zf (s : State) : (s.resetByCommand).zf = State.reset.zf := rfl
@[simp] theorem State.resetByCommand_ze (s : State) : (s.resetByCommand).ze = State.reset.ze := rfl
@[simp] theorem State.resetByCommand_slots (s : State) : (s.resetByCommand).slots = State.reset.slots := rfl
@[simp] theorem State.resetByCommand_enc (s : State) : (s.resetByCommand).enc = State.reset.enc := rfl
@[simp] theorem State.resetByCommand_dec (s : State) : (s.resetByCommand).dec = State.reset.dec := rfl
@[simp] theorem State.resetByCommand_ddict (s : State) : (s.resetByCommand).ddict = State.reset.ddict := rfl
@[simp] theorem State.resetByCommand_mem (s : State) : (s.resetByCommand).mem = s.mem := rfl
@[simp] theorem State.resetByCommand_plat (s : State) : (s.resetByCommand).plat = s.plat := rfl
@[simp] theorem State.resetByCommand_hostq (s : State) : (s.resetByCommand).hostq = s.hostq := rfl
@[simp] theorem State.resetByCommand_busData (s : State) : (s.resetByCommand).busData = s.busData := rfl

/-! setCrc -/

@[simp] theorem State.setCrc_cmd (s : State) (v : Word) : (s.setCrc v).cmd = s.cmd := rfl
@[simp] theorem State.setCrc_status (s : State) (v : Word) : (s.setCrc v).status = s.status := rfl
@[simp] theorem State.setCrc_irqEn (s : State) (v : Word) : (s.setCrc v).irqEn = s.irqEn := rfl
@[simp] theorem State.setCrc_errCause (s : State) (v : Word) : (s.setCrc v).errCause = s.errCause := rfl
@[simp] theorem State.setCrc_errInfo (s : State) (v : Word) : (s.setCrc v).errInfo = s.errInfo := rfl
@[simp] theorem State.setCrc_result0 (s : State) (v : Word) : (s.setCrc v).result0 = s.result0 := rfl
@[simp] theorem State.setCrc_result1 (s : State) (v : Word) : (s.setCrc v).result1 = s.result1 := rfl
@[simp] theorem State.setCrc_args (s : State) (v : Word) : (s.setCrc v).args = s.args := rfl
@[simp] theorem State.setCrc_crcAcc (s : State) (v : Word) : (s.setCrc v).crcAcc = v := rfl
@[simp] theorem State.setCrc_adlerAcc (s : State) (v : Word) : (s.setCrc v).adlerAcc = s.adlerAcc := rfl
@[simp] theorem State.setCrc_zf (s : State) (v : Word) : (s.setCrc v).zf = s.zf := rfl
@[simp] theorem State.setCrc_ze (s : State) (v : Word) : (s.setCrc v).ze = s.ze := rfl
@[simp] theorem State.setCrc_slots (s : State) (v : Word) : (s.setCrc v).slots = s.slots := rfl
@[simp] theorem State.setCrc_enc (s : State) (v : Word) : (s.setCrc v).enc = s.enc := rfl
@[simp] theorem State.setCrc_dec (s : State) (v : Word) : (s.setCrc v).dec = s.dec := rfl
@[simp] theorem State.setCrc_ddict (s : State) (v : Word) : (s.setCrc v).ddict = s.ddict := rfl
@[simp] theorem State.setCrc_mem (s : State) (v : Word) : (s.setCrc v).mem = s.mem := rfl
@[simp] theorem State.setCrc_plat (s : State) (v : Word) : (s.setCrc v).plat = s.plat := rfl
@[simp] theorem State.setCrc_hostq (s : State) (v : Word) : (s.setCrc v).hostq = s.hostq := rfl
@[simp] theorem State.setCrc_busData (s : State) (v : Word) : (s.setCrc v).busData = s.busData := rfl

/-! setAdler -/

@[simp] theorem State.setAdler_cmd (s : State) (v : Word) : (s.setAdler v).cmd = s.cmd := rfl
@[simp] theorem State.setAdler_status (s : State) (v : Word) : (s.setAdler v).status = s.status := rfl
@[simp] theorem State.setAdler_irqEn (s : State) (v : Word) : (s.setAdler v).irqEn = s.irqEn := rfl
@[simp] theorem State.setAdler_errCause (s : State) (v : Word) : (s.setAdler v).errCause = s.errCause := rfl
@[simp] theorem State.setAdler_errInfo (s : State) (v : Word) : (s.setAdler v).errInfo = s.errInfo := rfl
@[simp] theorem State.setAdler_result0 (s : State) (v : Word) : (s.setAdler v).result0 = s.result0 := rfl
@[simp] theorem State.setAdler_result1 (s : State) (v : Word) : (s.setAdler v).result1 = s.result1 := rfl
@[simp] theorem State.setAdler_args (s : State) (v : Word) : (s.setAdler v).args = s.args := rfl
@[simp] theorem State.setAdler_crcAcc (s : State) (v : Word) : (s.setAdler v).crcAcc = s.crcAcc := rfl
@[simp] theorem State.setAdler_adlerAcc (s : State) (v : Word) : (s.setAdler v).adlerAcc = v := rfl
@[simp] theorem State.setAdler_zf (s : State) (v : Word) : (s.setAdler v).zf = s.zf := rfl
@[simp] theorem State.setAdler_ze (s : State) (v : Word) : (s.setAdler v).ze = s.ze := rfl
@[simp] theorem State.setAdler_slots (s : State) (v : Word) : (s.setAdler v).slots = s.slots := rfl
@[simp] theorem State.setAdler_enc (s : State) (v : Word) : (s.setAdler v).enc = s.enc := rfl
@[simp] theorem State.setAdler_dec (s : State) (v : Word) : (s.setAdler v).dec = s.dec := rfl
@[simp] theorem State.setAdler_ddict (s : State) (v : Word) : (s.setAdler v).ddict = s.ddict := rfl
@[simp] theorem State.setAdler_mem (s : State) (v : Word) : (s.setAdler v).mem = s.mem := rfl
@[simp] theorem State.setAdler_plat (s : State) (v : Word) : (s.setAdler v).plat = s.plat := rfl
@[simp] theorem State.setAdler_hostq (s : State) (v : Word) : (s.setAdler v).hostq = s.hostq := rfl
@[simp] theorem State.setAdler_busData (s : State) (v : Word) : (s.setAdler v).busData = s.busData := rfl

/-! setSlot -/

@[simp] theorem State.setSlot_cmd (s : State) (k : Fin 4) (v : Slot) : (s.setSlot k v).cmd = s.cmd := rfl
@[simp] theorem State.setSlot_status (s : State) (k : Fin 4) (v : Slot) : (s.setSlot k v).status = s.status := rfl
@[simp] theorem State.setSlot_irqEn (s : State) (k : Fin 4) (v : Slot) : (s.setSlot k v).irqEn = s.irqEn := rfl
@[simp] theorem State.setSlot_errCause (s : State) (k : Fin 4) (v : Slot) : (s.setSlot k v).errCause = s.errCause := rfl
@[simp] theorem State.setSlot_errInfo (s : State) (k : Fin 4) (v : Slot) : (s.setSlot k v).errInfo = s.errInfo := rfl
@[simp] theorem State.setSlot_result0 (s : State) (k : Fin 4) (v : Slot) : (s.setSlot k v).result0 = s.result0 := rfl
@[simp] theorem State.setSlot_result1 (s : State) (k : Fin 4) (v : Slot) : (s.setSlot k v).result1 = s.result1 := rfl
@[simp] theorem State.setSlot_args (s : State) (k : Fin 4) (v : Slot) : (s.setSlot k v).args = s.args := rfl
@[simp] theorem State.setSlot_crcAcc (s : State) (k : Fin 4) (v : Slot) : (s.setSlot k v).crcAcc = s.crcAcc := rfl
@[simp] theorem State.setSlot_adlerAcc (s : State) (k : Fin 4) (v : Slot) : (s.setSlot k v).adlerAcc = s.adlerAcc := rfl
@[simp] theorem State.setSlot_zf (s : State) (k : Fin 4) (v : Slot) : (s.setSlot k v).zf = s.zf := rfl
@[simp] theorem State.setSlot_ze (s : State) (k : Fin 4) (v : Slot) : (s.setSlot k v).ze = s.ze := rfl
@[simp] theorem State.setSlot_slots (s : State) (k : Fin 4) (v : Slot) : (s.setSlot k v).slots = s.slots.set k v := rfl
@[simp] theorem State.setSlot_enc (s : State) (k : Fin 4) (v : Slot) : (s.setSlot k v).enc = s.enc := rfl
@[simp] theorem State.setSlot_dec (s : State) (k : Fin 4) (v : Slot) : (s.setSlot k v).dec = s.dec := rfl
@[simp] theorem State.setSlot_ddict (s : State) (k : Fin 4) (v : Slot) : (s.setSlot k v).ddict = s.ddict := rfl
@[simp] theorem State.setSlot_mem (s : State) (k : Fin 4) (v : Slot) : (s.setSlot k v).mem = s.mem := rfl
@[simp] theorem State.setSlot_plat (s : State) (k : Fin 4) (v : Slot) : (s.setSlot k v).plat = s.plat := rfl
@[simp] theorem State.setSlot_hostq (s : State) (k : Fin 4) (v : Slot) : (s.setSlot k v).hostq = s.hostq := rfl
@[simp] theorem State.setSlot_busData (s : State) (k : Fin 4) (v : Slot) : (s.setSlot k v).busData = s.busData := rfl

/-! setEnc -/

@[simp] theorem State.setEnc_cmd (s : State) (e : Enc) : (s.setEnc e).cmd = s.cmd := rfl
@[simp] theorem State.setEnc_status (s : State) (e : Enc) : (s.setEnc e).status = s.status := rfl
@[simp] theorem State.setEnc_irqEn (s : State) (e : Enc) : (s.setEnc e).irqEn = s.irqEn := rfl
@[simp] theorem State.setEnc_errCause (s : State) (e : Enc) : (s.setEnc e).errCause = s.errCause := rfl
@[simp] theorem State.setEnc_errInfo (s : State) (e : Enc) : (s.setEnc e).errInfo = s.errInfo := rfl
@[simp] theorem State.setEnc_result0 (s : State) (e : Enc) : (s.setEnc e).result0 = s.result0 := rfl
@[simp] theorem State.setEnc_result1 (s : State) (e : Enc) : (s.setEnc e).result1 = s.result1 := rfl
@[simp] theorem State.setEnc_args (s : State) (e : Enc) : (s.setEnc e).args = s.args := rfl
@[simp] theorem State.setEnc_crcAcc (s : State) (e : Enc) : (s.setEnc e).crcAcc = s.crcAcc := rfl
@[simp] theorem State.setEnc_adlerAcc (s : State) (e : Enc) : (s.setEnc e).adlerAcc = s.adlerAcc := rfl
@[simp] theorem State.setEnc_zf (s : State) (e : Enc) : (s.setEnc e).zf = s.zf := rfl
@[simp] theorem State.setEnc_ze (s : State) (e : Enc) : (s.setEnc e).ze = s.ze := rfl
@[simp] theorem State.setEnc_slots (s : State) (e : Enc) : (s.setEnc e).slots = s.slots := rfl
@[simp] theorem State.setEnc_enc (s : State) (e : Enc) : (s.setEnc e).enc = e := rfl
@[simp] theorem State.setEnc_dec (s : State) (e : Enc) : (s.setEnc e).dec = s.dec := rfl
@[simp] theorem State.setEnc_ddict (s : State) (e : Enc) : (s.setEnc e).ddict = s.ddict := rfl
@[simp] theorem State.setEnc_mem (s : State) (e : Enc) : (s.setEnc e).mem = s.mem := rfl
@[simp] theorem State.setEnc_plat (s : State) (e : Enc) : (s.setEnc e).plat = s.plat := rfl
@[simp] theorem State.setEnc_hostq (s : State) (e : Enc) : (s.setEnc e).hostq = s.hostq := rfl
@[simp] theorem State.setEnc_busData (s : State) (e : Enc) : (s.setEnc e).busData = s.busData := rfl

/-! setEncPhase -/

@[simp] theorem State.setEncPhase_cmd (s : State) (p : EncPhase) : (s.setEncPhase p).cmd = s.cmd := rfl
@[simp] theorem State.setEncPhase_status (s : State) (p : EncPhase) : (s.setEncPhase p).status = s.status := rfl
@[simp] theorem State.setEncPhase_irqEn (s : State) (p : EncPhase) : (s.setEncPhase p).irqEn = s.irqEn := rfl
@[simp] theorem State.setEncPhase_errCause (s : State) (p : EncPhase) : (s.setEncPhase p).errCause = s.errCause := rfl
@[simp] theorem State.setEncPhase_errInfo (s : State) (p : EncPhase) : (s.setEncPhase p).errInfo = s.errInfo := rfl
@[simp] theorem State.setEncPhase_result0 (s : State) (p : EncPhase) : (s.setEncPhase p).result0 = s.result0 := rfl
@[simp] theorem State.setEncPhase_result1 (s : State) (p : EncPhase) : (s.setEncPhase p).result1 = s.result1 := rfl
@[simp] theorem State.setEncPhase_args (s : State) (p : EncPhase) : (s.setEncPhase p).args = s.args := rfl
@[simp] theorem State.setEncPhase_crcAcc (s : State) (p : EncPhase) : (s.setEncPhase p).crcAcc = s.crcAcc := rfl
@[simp] theorem State.setEncPhase_adlerAcc (s : State) (p : EncPhase) : (s.setEncPhase p).adlerAcc = s.adlerAcc := rfl
@[simp] theorem State.setEncPhase_zf (s : State) (p : EncPhase) : (s.setEncPhase p).zf = s.zf := rfl
@[simp] theorem State.setEncPhase_ze (s : State) (p : EncPhase) : (s.setEncPhase p).ze = s.ze := rfl
@[simp] theorem State.setEncPhase_slots (s : State) (p : EncPhase) : (s.setEncPhase p).slots = s.slots := rfl
@[simp] theorem State.setEncPhase_enc (s : State) (p : EncPhase) : (s.setEncPhase p).enc = { s.enc with phase := p } := rfl
@[simp] theorem State.setEncPhase_dec (s : State) (p : EncPhase) : (s.setEncPhase p).dec = s.dec := rfl
@[simp] theorem State.setEncPhase_ddict (s : State) (p : EncPhase) : (s.setEncPhase p).ddict = s.ddict := rfl
@[simp] theorem State.setEncPhase_mem (s : State) (p : EncPhase) : (s.setEncPhase p).mem = s.mem := rfl
@[simp] theorem State.setEncPhase_plat (s : State) (p : EncPhase) : (s.setEncPhase p).plat = s.plat := rfl
@[simp] theorem State.setEncPhase_hostq (s : State) (p : EncPhase) : (s.setEncPhase p).hostq = s.hostq := rfl
@[simp] theorem State.setEncPhase_busData (s : State) (p : EncPhase) : (s.setEncPhase p).busData = s.busData := rfl

/-! encConsume -/

@[simp] theorem State.encConsume_cmd (s : State) (b : Byte) : (s.encConsume b).cmd = s.cmd := rfl
@[simp] theorem State.encConsume_status (s : State) (b : Byte) : (s.encConsume b).status = s.status := rfl
@[simp] theorem State.encConsume_irqEn (s : State) (b : Byte) : (s.encConsume b).irqEn = s.irqEn := rfl
@[simp] theorem State.encConsume_errCause (s : State) (b : Byte) : (s.encConsume b).errCause = s.errCause := rfl
@[simp] theorem State.encConsume_errInfo (s : State) (b : Byte) : (s.encConsume b).errInfo = s.errInfo := rfl
@[simp] theorem State.encConsume_result0 (s : State) (b : Byte) : (s.encConsume b).result0 = s.result0 := rfl
@[simp] theorem State.encConsume_result1 (s : State) (b : Byte) : (s.encConsume b).result1 = s.result1 := rfl
@[simp] theorem State.encConsume_args (s : State) (b : Byte) : (s.encConsume b).args = s.args := rfl
@[simp] theorem State.encConsume_crcAcc (s : State) (b : Byte) :
    (s.encConsume b).crcAcc = if s.enc.flags.crcTap then crcUpdate s.crcAcc [b] else s.crcAcc := rfl
@[simp] theorem State.encConsume_adlerAcc (s : State) (b : Byte) : (s.encConsume b).adlerAcc = s.adlerAcc := rfl
@[simp] theorem State.encConsume_zf (s : State) (b : Byte) : (s.encConsume b).zf = s.zf := rfl
@[simp] theorem State.encConsume_ze (s : State) (b : Byte) : (s.encConsume b).ze = s.ze := rfl
@[simp] theorem State.encConsume_slots (s : State) (b : Byte) : (s.encConsume b).slots = s.slots := rfl
@[simp] theorem State.encConsume_enc (s : State) (b : Byte) : (s.encConsume b).enc = s.enc.consume b := rfl
@[simp] theorem State.encConsume_dec (s : State) (b : Byte) : (s.encConsume b).dec = s.dec := rfl
@[simp] theorem State.encConsume_ddict (s : State) (b : Byte) : (s.encConsume b).ddict = s.ddict := rfl
@[simp] theorem State.encConsume_mem (s : State) (b : Byte) : (s.encConsume b).mem = s.mem := rfl
@[simp] theorem State.encConsume_plat (s : State) (b : Byte) : (s.encConsume b).plat = s.plat := rfl
@[simp] theorem State.encConsume_hostq (s : State) (b : Byte) : (s.encConsume b).hostq = s.hostq := rfl
@[simp] theorem State.encConsume_busData (s : State) (b : Byte) : (s.encConsume b).busData = s.busData := rfl

/-! setDec -/

@[simp] theorem State.setDec_cmd (s : State) (d : Dec) : (s.setDec d).cmd = s.cmd := rfl
@[simp] theorem State.setDec_status (s : State) (d : Dec) : (s.setDec d).status = s.status := rfl
@[simp] theorem State.setDec_irqEn (s : State) (d : Dec) : (s.setDec d).irqEn = s.irqEn := rfl
@[simp] theorem State.setDec_errCause (s : State) (d : Dec) : (s.setDec d).errCause = s.errCause := rfl
@[simp] theorem State.setDec_errInfo (s : State) (d : Dec) : (s.setDec d).errInfo = s.errInfo := rfl
@[simp] theorem State.setDec_result0 (s : State) (d : Dec) : (s.setDec d).result0 = s.result0 := rfl
@[simp] theorem State.setDec_result1 (s : State) (d : Dec) : (s.setDec d).result1 = s.result1 := rfl
@[simp] theorem State.setDec_args (s : State) (d : Dec) : (s.setDec d).args = s.args := rfl
@[simp] theorem State.setDec_crcAcc (s : State) (d : Dec) : (s.setDec d).crcAcc = s.crcAcc := rfl
@[simp] theorem State.setDec_adlerAcc (s : State) (d : Dec) : (s.setDec d).adlerAcc = s.adlerAcc := rfl
@[simp] theorem State.setDec_zf (s : State) (d : Dec) : (s.setDec d).zf = s.zf := rfl
@[simp] theorem State.setDec_ze (s : State) (d : Dec) : (s.setDec d).ze = s.ze := rfl
@[simp] theorem State.setDec_slots (s : State) (d : Dec) : (s.setDec d).slots = s.slots := rfl
@[simp] theorem State.setDec_enc (s : State) (d : Dec) : (s.setDec d).enc = s.enc := rfl
@[simp] theorem State.setDec_dec (s : State) (d : Dec) : (s.setDec d).dec = d := rfl
@[simp] theorem State.setDec_ddict (s : State) (d : Dec) : (s.setDec d).ddict = s.ddict := rfl
@[simp] theorem State.setDec_mem (s : State) (d : Dec) : (s.setDec d).mem = s.mem := rfl
@[simp] theorem State.setDec_plat (s : State) (d : Dec) : (s.setDec d).plat = s.plat := rfl
@[simp] theorem State.setDec_hostq (s : State) (d : Dec) : (s.setDec d).hostq = s.hostq := rfl
@[simp] theorem State.setDec_busData (s : State) (d : Dec) : (s.setDec d).busData = s.busData := rfl

/-! decFailed -/

@[simp] theorem State.decFailed_cmd (s : State) (c : Cause) (info : Nat) : (s.decFailed c info).cmd = s.cmd := rfl
@[simp] theorem State.decFailed_status (s : State) (c : Cause) (info : Nat) : (s.decFailed c info).status = s.status := rfl
@[simp] theorem State.decFailed_irqEn (s : State) (c : Cause) (info : Nat) : (s.decFailed c info).irqEn = s.irqEn := rfl
@[simp] theorem State.decFailed_errCause (s : State) (c : Cause) (info : Nat) :
    (s.decFailed c info).errCause = s.errCause := rfl
@[simp] theorem State.decFailed_errInfo (s : State) (c : Cause) (info : Nat) :
    (s.decFailed c info).errInfo = s.errInfo := rfl
@[simp] theorem State.decFailed_result0 (s : State) (c : Cause) (info : Nat) :
    (s.decFailed c info).result0 = s.result0 := rfl
@[simp] theorem State.decFailed_result1 (s : State) (c : Cause) (info : Nat) :
    (s.decFailed c info).result1 = s.result1 := rfl
@[simp] theorem State.decFailed_args (s : State) (c : Cause) (info : Nat) : (s.decFailed c info).args = s.args := rfl
@[simp] theorem State.decFailed_crcAcc (s : State) (c : Cause) (info : Nat) : (s.decFailed c info).crcAcc = s.crcAcc := rfl
@[simp] theorem State.decFailed_adlerAcc (s : State) (c : Cause) (info : Nat) :
    (s.decFailed c info).adlerAcc = s.adlerAcc := rfl
@[simp] theorem State.decFailed_zf (s : State) (c : Cause) (info : Nat) : (s.decFailed c info).zf = s.zf := rfl
@[simp] theorem State.decFailed_ze (s : State) (c : Cause) (info : Nat) : (s.decFailed c info).ze = s.ze := rfl
@[simp] theorem State.decFailed_slots (s : State) (c : Cause) (info : Nat) : (s.decFailed c info).slots = s.slots := rfl
@[simp] theorem State.decFailed_enc (s : State) (c : Cause) (info : Nat) : (s.decFailed c info).enc = s.enc := rfl
@[simp] theorem State.decFailed_dec (s : State) (c : Cause) (info : Nat) :
    (s.decFailed c info).dec = { s.dec with phase := .failed, fcode := c.code.toByte, fcause := c.num, finfo := BitVec.ofNat 32 info } := rfl
@[simp] theorem State.decFailed_ddict (s : State) (c : Cause) (info : Nat) : (s.decFailed c info).ddict = s.ddict := rfl
@[simp] theorem State.decFailed_mem (s : State) (c : Cause) (info : Nat) : (s.decFailed c info).mem = s.mem := rfl
@[simp] theorem State.decFailed_plat (s : State) (c : Cause) (info : Nat) : (s.decFailed c info).plat = s.plat := rfl
@[simp] theorem State.decFailed_hostq (s : State) (c : Cause) (info : Nat) : (s.decFailed c info).hostq = s.hostq := rfl
@[simp] theorem State.decFailed_busData (s : State) (c : Cause) (info : Nat) :
    (s.decFailed c info).busData = s.busData := rfl

/-! decCount -/

@[simp] theorem State.decCount_cmd (s : State) (b : Byte) : (s.decCount b).cmd = s.cmd := rfl
@[simp] theorem State.decCount_status (s : State) (b : Byte) : (s.decCount b).status = s.status := rfl
@[simp] theorem State.decCount_irqEn (s : State) (b : Byte) : (s.decCount b).irqEn = s.irqEn := rfl
@[simp] theorem State.decCount_errCause (s : State) (b : Byte) : (s.decCount b).errCause = s.errCause := rfl
@[simp] theorem State.decCount_errInfo (s : State) (b : Byte) : (s.decCount b).errInfo = s.errInfo := rfl
@[simp] theorem State.decCount_result0 (s : State) (b : Byte) : (s.decCount b).result0 = s.result0 := rfl
@[simp] theorem State.decCount_result1 (s : State) (b : Byte) : (s.decCount b).result1 = s.result1 := rfl
@[simp] theorem State.decCount_args (s : State) (b : Byte) : (s.decCount b).args = s.args := rfl
@[simp] theorem State.decCount_crcAcc (s : State) (b : Byte) :
    (s.decCount b).crcAcc = if s.dec.crcTap then crcUpdate s.crcAcc [b] else s.crcAcc := rfl
@[simp] theorem State.decCount_adlerAcc (s : State) (b : Byte) : (s.decCount b).adlerAcc = s.adlerAcc := rfl
@[simp] theorem State.decCount_zf (s : State) (b : Byte) : (s.decCount b).zf = s.zf := rfl
@[simp] theorem State.decCount_ze (s : State) (b : Byte) : (s.decCount b).ze = s.ze := rfl
@[simp] theorem State.decCount_slots (s : State) (b : Byte) : (s.decCount b).slots = s.slots := rfl
@[simp] theorem State.decCount_enc (s : State) (b : Byte) : (s.decCount b).enc = s.enc := rfl
@[simp] theorem State.decCount_dec (s : State) (b : Byte) :
    (s.decCount b).dec = { s.dec with
      opos := s.dec.nextPos
      hist := min (s.dec.hist + 1) Config.window
      adler := adlerUpdate s.dec.adler [b] } := rfl
@[simp] theorem State.decCount_ddict (s : State) (b : Byte) :
    (s.decCount b).ddict = if s.dec.omode = .stream then putCell s.ddict s.dec.opos b else s.ddict := rfl
@[simp] theorem State.decCount_mem (s : State) (b : Byte) : (s.decCount b).mem = s.mem := rfl
@[simp] theorem State.decCount_plat (s : State) (b : Byte) : (s.decCount b).plat = s.plat := rfl
@[simp] theorem State.decCount_hostq (s : State) (b : Byte) : (s.decCount b).hostq = s.hostq := rfl
@[simp] theorem State.decCount_busData (s : State) (b : Byte) : (s.decCount b).busData = s.busData := rfl

/-! setLhOfs -/

@[simp] theorem State.setLhOfs_cmd (s : State) (v : Word) : (s.setLhOfs v).cmd = s.cmd := rfl
@[simp] theorem State.setLhOfs_status (s : State) (v : Word) : (s.setLhOfs v).status = s.status := rfl
@[simp] theorem State.setLhOfs_irqEn (s : State) (v : Word) : (s.setLhOfs v).irqEn = s.irqEn := rfl
@[simp] theorem State.setLhOfs_errCause (s : State) (v : Word) : (s.setLhOfs v).errCause = s.errCause := rfl
@[simp] theorem State.setLhOfs_errInfo (s : State) (v : Word) : (s.setLhOfs v).errInfo = s.errInfo := rfl
@[simp] theorem State.setLhOfs_result0 (s : State) (v : Word) : (s.setLhOfs v).result0 = s.result0 := rfl
@[simp] theorem State.setLhOfs_result1 (s : State) (v : Word) : (s.setLhOfs v).result1 = s.result1 := rfl
@[simp] theorem State.setLhOfs_args (s : State) (v : Word) : (s.setLhOfs v).args = s.args := rfl
@[simp] theorem State.setLhOfs_crcAcc (s : State) (v : Word) : (s.setLhOfs v).crcAcc = s.crcAcc := rfl
@[simp] theorem State.setLhOfs_adlerAcc (s : State) (v : Word) : (s.setLhOfs v).adlerAcc = s.adlerAcc := rfl
@[simp] theorem State.setLhOfs_zf (s : State) (v : Word) : (s.setLhOfs v).zf = { s.zf with lhOfs := v } := rfl
@[simp] theorem State.setLhOfs_ze (s : State) (v : Word) : (s.setLhOfs v).ze = s.ze := rfl
@[simp] theorem State.setLhOfs_slots (s : State) (v : Word) : (s.setLhOfs v).slots = s.slots := rfl
@[simp] theorem State.setLhOfs_enc (s : State) (v : Word) : (s.setLhOfs v).enc = s.enc := rfl
@[simp] theorem State.setLhOfs_dec (s : State) (v : Word) : (s.setLhOfs v).dec = s.dec := rfl
@[simp] theorem State.setLhOfs_ddict (s : State) (v : Word) : (s.setLhOfs v).ddict = s.ddict := rfl
@[simp] theorem State.setLhOfs_mem (s : State) (v : Word) : (s.setLhOfs v).mem = s.mem := rfl
@[simp] theorem State.setLhOfs_plat (s : State) (v : Word) : (s.setLhOfs v).plat = s.plat := rfl
@[simp] theorem State.setLhOfs_hostq (s : State) (v : Word) : (s.setLhOfs v).hostq = s.hostq := rfl
@[simp] theorem State.setLhOfs_busData (s : State) (v : Word) : (s.setLhOfs v).busData = s.busData := rfl

end Sys2Proof.Machine
end

