-- ==== Sys2Proof/Laws/Memory.lean ====
section
/-! SUPPORT. The laws of host memory and of the lists of cells: read after write, the canonical form kept by every operation, and
what a range read and a range write do (20_memory.md R143, R145). -/

namespace Sys2Proof.Machine

variable {α : Type}

/-! Lists of cells. -/

@[simp] theorem cellAt_nil (a : Nat) : cellAt ([] : List (Nat × α)) a = none := rfl

theorem cellAt_putCell_self (m : List (Nat × α)) (a : Nat) (v : α) : cellAt (putCell m a v) a = some v := by
  induction m with
  | nil => simp [putCell, cellAt]
  | cons c m ih =>
    obtain ⟨k, x⟩ := c
    unfold putCell
    split
    · simp [cellAt]
    · split
      · simp [cellAt]
      · next h1 h2 => simp [cellAt, ih, show k ≠ a by omega]

theorem cellAt_putCell_ne (m : List (Nat × α)) {a b : Nat} (v : α) (h : b ≠ a) :
    cellAt (putCell m a v) b = cellAt m b := by
  induction m with
  | nil => simp [putCell, cellAt, Ne.symm h]
  | cons c m ih =>
    obtain ⟨k, x⟩ := c
    unfold putCell
    split
    · simp [cellAt, Ne.symm h]
    · split
      · next h2 => simp [cellAt, Ne.symm h, ← h2]
      · simp [cellAt, ih]

theorem cellAt_dropCell_ne (m : List (Nat × α)) {a b : Nat} (h : b ≠ a) : cellAt (dropCell m a) b = cellAt m b := by
  induction m with
  | nil => rfl
  | cons c m ih =>
    obtain ⟨k, x⟩ := c
    unfold dropCell
    split
    · next h2 => simp [cellAt, ← h2, Ne.symm h]
    · simp [cellAt, ih]

theorem rising_cons {k : Nat} {x : α} {m : List (Nat × α)} :
    rising ((k, x) :: m) = true ↔ (∀ c ∈ m, k < c.1) ∧ rising m = true := by
  simp [rising]

theorem cellAt_none_of_lt {m : List (Nat × α)} {a : Nat} (h : ∀ c ∈ m, a < c.1) : cellAt m a = none := by
  induction m with
  | nil => rfl
  | cons c m ih =>
    obtain ⟨k, x⟩ := c
    have hk : a < k := h (k, x) (by simp)
    simp [cellAt, show k ≠ a by omega, ih (fun c hc => h c (by simp [hc]))]

theorem cellAt_dropCell_self {m : List (Nat × α)} (a : Nat) (h : rising m = true) : cellAt (dropCell m a) a = none := by
  induction m with
  | nil => rfl
  | cons c m ih =>
    obtain ⟨k, x⟩ := c
    rw [rising_cons] at h
    unfold dropCell
    split
    · next h2 => exact cellAt_none_of_lt (h2 ▸ h.1)
    · next h2 => simp [cellAt, Ne.symm h2, ih h.2]

theorem mem_putCell {m : List (Nat × α)} {a : Nat} {v : α} {c : Nat × α} (h : c ∈ putCell m a v) : c = (a, v) ∨ c ∈ m := by
  induction m with
  | nil => simpa [putCell] using h
  | cons d m ih =>
    obtain ⟨k, x⟩ := d
    unfold putCell at h
    split at h
    · simpa using h
    · split at h
      · simp only [List.mem_cons] at h ⊢; tauto
      · simp only [List.mem_cons] at h ⊢
        rcases h with h | h
        · exact .inr (.inl h)
        · exact (ih h).imp_right .inr

theorem mem_dropCell {m : List (Nat × α)} {a : Nat} {c : Nat × α} (h : c ∈ dropCell m a) : c ∈ m := by
  induction m with
  | nil => exact h
  | cons d m ih =>
    obtain ⟨k, x⟩ := d
    unfold dropCell at h
    split at h
    · exact List.mem_cons_of_mem _ h
    · simp only [List.mem_cons] at h ⊢
      exact h.imp_right ih

theorem rising_putCell {m : List (Nat × α)} (a : Nat) (v : α) (h : rising m = true) : rising (putCell m a v) = true := by
  induction m with
  | nil => rfl
  | cons d m ih =>
    obtain ⟨k, x⟩ := d
    have h' := rising_cons.mp h
    unfold putCell
    split
    · next h1 =>
      refine rising_cons.mpr ⟨fun c hc => ?_, h⟩
      rcases List.mem_cons.mp hc with rfl | hc
      · exact h1
      · exact lt_trans h1 (h'.1 c hc)
    · split
      · next h2 => exact rising_cons.mpr ⟨h2 ▸ h'.1, h'.2⟩
      · refine rising_cons.mpr ⟨fun c hc => ?_, ih h'.2⟩
        rcases mem_putCell hc with rfl | hc
        · simp only; omega
        · exact h'.1 c hc

theorem rising_dropCell {m : List (Nat × α)} (a : Nat) (h : rising m = true) : rising (dropCell m a) = true := by
  induction m with
  | nil => rfl
  | cons d m ih =>
    obtain ⟨k, x⟩ := d
    have h' := rising_cons.mp h
    unfold dropCell
    split
    · exact h'.2
    · exact rising_cons.mpr ⟨fun c hc => h'.1 c (mem_dropCell hc), ih h'.2⟩

/-! One byte of host memory. -/

theorem Memory.wf_rising {m : Memory} (h : m.wf = true) : rising m = true := by
  simp only [Memory.wf, Bool.and_eq_true] at h; exact h.1

theorem Memory.wf_nil : Memory.wf [] = true := rfl

theorem Memory.wf_write {m : Memory} {a : Nat} (b : Byte) (h : m.wf = true) (ha : a < 2 ^ 32) : (m.write a b).wf = true := by
  simp only [Memory.wf, Bool.and_eq_true, List.all_eq_true] at h ⊢
  unfold Memory.write
  split
  · exact ⟨rising_dropCell a h.1, fun c hc => h.2 c (mem_dropCell hc)⟩
  · next hb =>
    refine ⟨rising_putCell a b h.1, fun c hc => ?_⟩
    rcases mem_putCell hc with rfl | hc
    · simpa [hb] using ha
    · exact h.2 c hc

theorem Memory.read_write_self {m : Memory} (a : Nat) (b : Byte) (h : m.wf = true) : (m.write a b).read a = b := by
  unfold Memory.read Memory.write
  split
  · next hb => simp [cellAt_dropCell_self a (Memory.wf_rising h), hb]
  · simp [cellAt_putCell_self]

theorem Memory.read_write_ne (m : Memory) {a x : Nat} (b : Byte) (h : x ≠ a) : (m.write a b).read x = m.read x := by
  unfold Memory.read Memory.write
  split
  · rw [cellAt_dropCell_ne m h]
  · rw [cellAt_putCell_ne m b h]

/-! Ranges (20_memory.md R143, R145). -/

theorem State.memOk_lt {s : State} {a : Nat} {w : Access} (h : s.memOk a w = true) : a < 2 ^ 32 := by
  simp only [State.memOk, Bool.and_eq_true, decide_eq_true_eq] at h; exact h.1

@[simp] theorem State.memOk_poke (s : State) (a : Nat) (b : Byte) (x : Nat) (w : Access) :
    (s.poke a b).memOk x w = s.memOk x w := rfl

/-- A range read that succeeds read every byte, and each is the byte memory holds. -/
theorem State.readRange_ok {s : State} {a n : Nat} {bs : List Byte} (h : s.readRange a n = .ok bs) :
    (∀ k < n, s.memOk (a + k) .read = true) ∧ bs = (List.range n).map (fun k => s.mem.read (a + k)) := by
  induction n generalizing a bs with
  | zero => simp [State.readRange] at h; simp [← h]
  | succ n ih =>
    unfold State.readRange at h
    split at h
    · next ha =>
      split at h
      · next bs' hr =>
        obtain ⟨h1, h2⟩ := ih hr
        simp only [Except.ok.injEq] at h
        refine ⟨fun k hk => ?_, ?_⟩
        · rcases k with _ | k
          · exact ha
          · have := h1 k (by omega); rwa [show a + 1 + k = a + (k + 1) by omega] at this
        · rw [← h, h2, List.range_succ_eq_map]
          simp [Function.comp_def, Nat.add_assoc, Nat.add_comm 1]
      · simp at h
    · simp at h

/-- A range whose every byte can be read is read. -/
theorem State.readRange_of_ok {s : State} {a n : Nat} (h : ∀ k < n, s.memOk (a + k) .read = true) :
    s.readRange a n = .ok ((List.range n).map (fun k => s.mem.read (a + k))) := by
  induction n generalizing a with
  | zero => rfl
  | succ n ih =>
    have h0 := h 0 (by omega)
    have := ih (a := a + 1) (fun k hk => by
      have := h (k + 1) (by omega); rwa [show a + (k + 1) = a + 1 + k by omega] at this)
    unfold State.readRange
    rw [Nat.add_zero] at h0
    rw [if_pos h0, this, List.range_succ_eq_map]
    simp [Function.comp_def, Nat.add_assoc, Nat.add_comm 1]

/-- A range read that fails fails at its first byte that cannot be read. -/
theorem State.readRange_error {s : State} {a n x : Nat} (h : s.readRange a n = .error x) :
    a ≤ x ∧ x < a + n ∧ s.memOk x .read = false ∧ ∀ y, a ≤ y → y < x → s.memOk y .read = true := by
  induction n generalizing a with
  | zero => simp [State.readRange] at h
  | succ n ih =>
    unfold State.readRange at h
    split at h
    · next ha =>
      split at h
      · simp at h
      · next x' hr =>
        simp only [Except.error.injEq] at h
        subst h
        obtain ⟨h1, h2, h3, h4⟩ := ih hr
        refine ⟨by omega, by omega, h3, fun y hy1 hy2 => ?_⟩
        by_cases hya : y = a
        · exact hya ▸ ha
        · exact h4 y (by omega) hy2
    · next ha =>
      simp only [Except.error.injEq] at h
      subst h
      exact ⟨le_refl _, by omega, by simpa using ha, fun y h1 h2 => by omega⟩

/-- A range write changes host memory only. -/
theorem State.writeRange_frame (s : State) (a : Nat) (bs : List Byte) :
    (s.writeRange a bs).1 = { s with mem := (s.writeRange a bs).1.mem } := by
  induction bs generalizing s a with
  | nil => rfl
  | cons b bs ih =>
    unfold State.writeRange
    split
    · rw [ih]; rfl
    · rfl

/-- A range write keeps the canonical form of memory. -/
theorem State.writeRange_wf {s : State} (a : Nat) (bs : List Byte) (h : s.mem.wf = true) :
    (s.writeRange a bs).1.mem.wf = true := by
  induction bs generalizing s a with
  | nil => exact h
  | cons b bs ih =>
    unfold State.writeRange
    split
    · next hok => exact ih (a + 1) (by simpa using Memory.wf_write b h (State.memOk_lt hok))
    · exact h

/-- A range write leaves every byte outside the range as it was. -/
theorem State.writeRange_outside (s : State) (a : Nat) (bs : List Byte) {x : Nat} (h : x < a ∨ a + bs.length ≤ x) :
    (s.writeRange a bs).1.mem.read x = s.mem.read x := by
  induction bs generalizing s a with
  | nil => rfl
  | cons b bs ih =>
    simp only [List.length_cons] at h
    unfold State.writeRange
    split
    · rw [ih _ _ (by omega), State.poke_mem, Memory.read_write_ne _ _ (by omega)]
    · rfl

/-- A range whose every byte can be written is written whole. -/
theorem State.writeRange_of_ok {s : State} {a : Nat} {bs : List Byte}
    (h : ∀ k < bs.length, s.memOk (a + k) .write = true) : (s.writeRange a bs).2 = none := by
  induction bs generalizing s a with
  | nil => rfl
  | cons b bs ih =>
    have h0 := h 0 (by simp)
    unfold State.writeRange
    rw [Nat.add_zero] at h0
    rw [if_pos h0]
    refine ih (fun k hk => ?_)
    have := h (k + 1) (by simpa using hk)
    rw [State.memOk_poke]; rwa [show a + (k + 1) = a + 1 + k by omega] at this

/-- After a range write of which every byte was written, each byte of the range reads as written. -/
theorem State.writeRange_inside {s : State} {a : Nat} {bs : List Byte} (hw : s.mem.wf = true)
    (h : ∀ k < bs.length, s.memOk (a + k) .write = true) {k : Nat} (hk : k < bs.length) :
    (s.writeRange a bs).1.mem.read (a + k) = bs[k] := by
  induction bs generalizing s a k with
  | nil => simp at hk
  | cons b bs ih =>
    have h0 := h 0 (by simp)
    unfold State.writeRange
    rw [Nat.add_zero] at h0
    rw [if_pos h0]
    rcases k with _ | k
    · rw [State.writeRange_outside _ _ _ (by omega)]
      simpa using Memory.read_write_self a b hw
    · have hk' : k < bs.length := by simpa using hk
      rw [show a + (k + 1) = a + 1 + k by omega]
      refine ih (by simpa using Memory.wf_write b hw (State.memOk_lt h0)) (fun j hj => ?_) hk'
      have := h (j + 1) (by simpa using hj)
      rw [State.memOk_poke]; rwa [show a + (j + 1) = a + 1 + j by omega] at this

end Sys2Proof.Machine
end

