-- ==== Sys2Proof/Laws/Commands.lean ====
section
/-! SUPPORT. What the shared operations of a command do, one lemma each, and how a command's pseudocode runs: the lemmas a proof
cites instead of unfolding the operations (00_scope.md R19, R27; 60_exceptions.md R580). -/

namespace Sys2Proof.Machine

variable {ε σ α β : Type}

/-! The monad of commands and runs. -/

theorem bind_run (m : EStateM ε σ α) (k : α → EStateM ε σ β) (s : σ) :
    (m >>= k) s = match m s with
      | .ok a t => k a t
      | .error e t => .error e t := rfl

@[simp] theorem pure_run (a : α) (s : σ) : (pure a : EStateM ε σ α) s = .ok a s := rfl

@[simp] theorem throw_run (e : ε) (s : σ) : (throw e : EStateM ε σ α) s = .error e s := rfl

@[simp] theorem get_run (s : σ) : (get : EStateM ε σ σ) s = .ok s s := rfl

@[simp] theorem modify_run (f : σ → σ) (s : σ) : (modify f : EStateM ε σ PUnit) s = .ok ⟨⟩ (f s) := rfl

theorem bind_ok {m : EStateM ε σ α} {k : α → EStateM ε σ β} {s t : σ} {a : α} (h : m s = .ok a t) : (m >>= k) s = k a t := by
  rw [bind_run, h]

theorem bind_error {m : EStateM ε σ α} {k : α → EStateM ε σ β} {s t : σ} {e : ε} (h : m s = .error e t) :
    (m >>= k) s = .error e t := by
  rw [bind_run, h]

/-- A sequence that succeeds: its first part succeeded, and then its second. -/
theorem bind_eq_ok {m : EStateM ε σ α} {k : α → EStateM ε σ β} {s t : σ} {b : β} (h : (m >>= k) s = .ok b t) :
    ∃ a u, m s = .ok a u ∧ k a u = .ok b t := by
  rw [bind_run] at h
  split at h
  · next a u hm => exact ⟨a, u, hm, h⟩
  · simp at h

/-- A sequence that fails: its first part failed, or succeeded and then its second failed. -/
theorem bind_eq_error {m : EStateM ε σ α} {k : α → EStateM ε σ β} {s t : σ} {e : ε} (h : (m >>= k) s = .error e t) :
    m s = .error e t ∨ ∃ a u, m s = .ok a u ∧ k a u = .error e t := by
  rw [bind_run] at h
  split at h
  · next a u hm => exact .inr ⟨a, u, hm, h⟩
  · next e' u hm =>
    simp only [EStateM.Result.error.injEq] at h
    obtain ⟨rfl, rfl⟩ := h
    exact .inl hm

/-! The operations of a command. -/

theorem raise_run (c : Cause) (info : Nat) (s : State) :
    (c.raise info : Cmd α) s
      = .error { code := c.code.toByte, cause := c.num, info := BitVec.ofNat 32 info, r0 := 0#32, r1 := 0#32 } s := rfl

theorem deny_run (bad : Bool) (c : Cause) (info : Nat) (s : State) :
    deny bad c info s = if bad then (c.raise info : Cmd Unit) s else .ok () s := by
  cases bad <;> rfl

@[simp] theorem deny_false (c : Cause) (info : Nat) (s : State) : deny false c info s = .ok () s := rfl

theorem deny_true (c : Cause) (info : Nat) (s : State) : deny true c info s = (c.raise info : Cmd Unit) s := rfl

@[simp] theorem finish_run (code : Code) (r0 r1 : Nat) (s : State) :
    finish code r0 r1 s = .ok { code := code, r0 := BitVec.ofNat 32 r0, r1 := BitVec.ofNat 32 r1 } s := rfl

/-- check range passes exactly when the range is empty or off address 0, and ends within the space (20_memory.md R147). -/
theorem checkRange_ok {a n : Nat} (s : State) (h0 : 0 < n → a ≠ 0) (h : a + n ≤ 2 ^ 32) : checkRange a n s = .ok () s := by
  have h1 : (decide (0 < n) && a == 0) = false := by
    simp only [Bool.and_eq_false_iff, decide_eq_false_iff_not, beq_eq_false_iff_ne]
    by_cases hn : 0 < n
    · exact .inr (h0 hn)
    · exact .inl hn
  have h2 : decide (2 ^ 32 < a + n) = false := by simpa using h
  unfold checkRange
  rw [h1, bind_ok (deny_false _ _ _), h2, deny_false]

theorem checkRange_nullBuf {a n : Nat} (s : State) (hn : 0 < n) (ha : a = 0) :
    checkRange a n s = (Cause.nullBuf.raise 0 : Cmd Unit) s := by
  subst ha
  unfold checkRange
  rw [show (decide (0 < n) && (0 : Nat) == 0) = true by simpa using hn]
  exact bind_error (deny_true _ _ _)

theorem checkRange_range {a n : Nat} (s : State) (h0 : 0 < n → a ≠ 0) (h : 2 ^ 32 < a + n) :
    checkRange a n s = (Cause.range.raise a : Cmd Unit) s := by
  have h1 : (decide (0 < n) && a == 0) = false := by
    simp only [Bool.and_eq_false_iff, decide_eq_false_iff_not, beq_eq_false_iff_ne]
    by_cases hn : 0 < n
    · exact .inr (h0 hn)
    · exact .inl hn
  unfold checkRange
  rw [h1, bind_ok (deny_false _ _ _), show decide (2 ^ 32 < a + n) = true by simpa using h, deny_true]

theorem checkOverlap_ok {ins : List (Nat × Nat)} {out : Nat × Nat} (s : State) (h : ins.any (rangesOverlap out) = false) :
    checkOverlap ins out s = .ok () s := by
  unfold checkOverlap; rw [h, deny_false]

theorem memRead_ok {a n : Nat} {s : State} {bs : List Byte} (h : s.readRange a n = .ok bs) : memRead a n s = .ok bs s := by
  unfold memRead; rw [h]

theorem memRead_error {a n x : Nat} {s : State} (h : s.readRange a n = .error x) :
    memRead a n s = (Cause.busRead.raise x : Cmd (List Byte)) s := by
  unfold memRead; rw [h]

theorem memWrite_run (a : Nat) (bs : List Byte) (s : State) :
    memWrite a bs s = match (s.writeRange a bs).2 with
      | none => .ok () (s.writeRange a bs).1
      | some x => (Cause.busWrite.raise x : Cmd Unit) (s.writeRange a bs).1 := by
  unfold memWrite
  generalize s.writeRange a bs = r
  obtain ⟨t, _ | x⟩ := r <;> rfl

theorem memWrite_ok {a : Nat} {bs : List Byte} {s : State} (h : (s.writeRange a bs).2 = none) :
    memWrite a bs s = .ok () (s.writeRange a bs).1 := by
  rw [memWrite_run, h]

/-! The end of a command. -/

theorem runCmd_ok {m : Cmd Finish} {s t : State} {f : Finish} (h : m s = .ok f t) :
    runCmd m s = .next (t.complete f.code.toByte 0#8 0#32 f.r0 f.r1) := by
  unfold runCmd; rw [h]

theorem runCmd_error {m : Cmd Finish} {s t : State} {e : Raise} (h : m s = .error e t) :
    runCmd m s = .next (t.complete e.code e.cause e.info e.r0 e.r1) := by
  unfold runCmd; rw [h]

/-- Every command's pseudocode ends in a completion (60_exceptions.md R580). -/
theorem runCmd_completes (m : Cmd Finish) (s : State) : ∃ t, runCmd m s = .next t := by
  unfold runCmd
  split
  · exact ⟨_, rfl⟩
  · exact ⟨_, rfl⟩

/-! What every run of a piece of pseudocode keeps. -/

/-- The state a piece of pseudocode ends in, whether it succeeds or fails. -/
def endState (r : EStateM.Result ε σ α) : σ :=
  match r with
  | .ok _ t => t
  | .error _ t => t

/-- From every state, the state `m` ends in is related to the first by `R`. -/
def Keeps (R : σ → σ → Prop) (m : EStateM ε σ α) : Prop := ∀ s, R s (endState (m s))

theorem Keeps.bind {R : σ → σ → Prop} (trans : ∀ a b c, R a b → R b c → R a c) {m : EStateM ε σ α}
    {k : α → EStateM ε σ β} (hm : Keeps R m) (hk : ∀ a, Keeps R (k a)) : Keeps R (m >>= k) := by
  intro s
  have h := hm s
  rw [bind_run]
  split
  · next a t he => rw [he] at h; exact trans _ _ _ h (hk a t)
  · next e t he => rw [he] at h; exact h

theorem Keeps.refl {R : σ → σ → Prop} (refl : ∀ a, R a a) {m : EStateM ε σ α} (h : ∀ s, endState (m s) = s) : Keeps R m :=
  fun s => by rw [h s]; exact refl s

theorem endState_deny (bad : Bool) (c : Cause) (info : Nat) (s : State) : endState (deny bad c info s) = s := by
  cases bad <;> rfl

theorem endState_checkRange (a n : Nat) (s : State) : endState (checkRange a n s) = s := by
  unfold checkRange
  rw [bind_run, deny_run]
  split
  · next a t h =>
    split at h
    · simp [raise_run] at h
    · simp only [EStateM.Result.ok.injEq] at h
      rw [← h.2]; exact endState_deny _ _ _ _
  · next e t h =>
    split at h
    · simp only [raise_run, EStateM.Result.error.injEq] at h; exact h.2.symm
    · simp at h

theorem endState_checkOverlap (ins : List (Nat × Nat)) (out : Nat × Nat) (s : State) :
    endState (checkOverlap ins out s) = s := endState_deny _ _ _ _

theorem endState_memRead (a n : Nat) (s : State) : endState (memRead a n s) = s := by
  unfold memRead
  split <;> rfl

theorem endState_memWrite (a : Nat) (bs : List Byte) (s : State) :
    endState (memWrite a bs s) = (s.writeRange a bs).1 := by
  rw [memWrite_run]
  split <;> rfl

/-! A register write leaves the platform's data and the pending actions alone (10_state.md R40). -/

@[simp] theorem regWrite_plat (s : State) (off : Nat) (v : Word) : (s.regWrite off v).plat = s.plat := by
  unfold State.regWrite; split <;> rfl

@[simp] theorem regWrite_hostq (s : State) (off : Nat) (v : Word) : (s.regWrite off v).hostq = s.hostq := by
  unfold State.regWrite; split <;> rfl

end Sys2Proof.Machine
end

