-- ==== Sys2Proof/Laws/Decoder.lean ====
section
/-! SUPPORT. DEC_RUN never stalls: each round of its loop lowers `Run.decMeasure`, so the loop ends in DONE, a suspension or a
failure before its fuel does, in every state (46_decoder.md R445; log 11). -/

namespace Sys2Proof.Machine

variable {α β : Type}

/-- The bits of input a run has left: whole bytes not yet pulled, and the BitBuffer. -/
def Run.bitsLeft (n : Nat) (r : Run) : Nat := 8 * (n - r.c) + r.s.dec.nbits

/-- When `m` goes on, it has used at least `k` bits and left the decoder's state as it was. -/
def Spends (n k : Nat) (m : RunM α) : Prop :=
  ∀ r a r', m r = .ok a r' → r'.bitsLeft n + k ≤ r.bitsLeft n ∧ r'.s.dec.phase = r.s.dec.phase

/-- When `m` goes on, it has used at least `k` bits and the decoder is in one of the states `p`. -/
def Goes (n k : Nat) (p : DecPhase → Prop) (m : RunM Unit) : Prop :=
  ∀ r r', m r = .ok () r' → r'.bitsLeft n + k ≤ r.bitsLeft n ∧ p r'.s.dec.phase

theorem Spends.bind {n j k : Nat} {m : RunM α} {f : α → RunM β} (hm : Spends n j m) (hf : ∀ a, Spends n k (f a)) :
    Spends n (j + k) (m >>= f) := by
  intro r b r' h
  obtain ⟨a, u, h1, h2⟩ := bind_eq_ok h
  have h3 := hm r a u h1
  have h4 := hf a u b r' h2
  exact ⟨by omega, h4.2.trans h3.2⟩

theorem Goes.after {n j k : Nat} {p : DecPhase → Prop} {m : RunM α} {f : α → RunM Unit} (hm : Spends n j m)
    (hf : ∀ a, Goes n k p (f a)) : Goes n (j + k) p (m >>= f) := by
  intro r r' h
  obtain ⟨a, u, h1, h2⟩ := bind_eq_ok h
  have h3 := hm r a u h1
  have h4 := hf a u r' h2
  exact ⟨by omega, h4.2⟩

theorem Spends.bind0 {n k : Nat} {m : RunM α} {f : α → RunM β} (hm : Spends n 0 m) (hf : ∀ a, Spends n k (f a)) :
    Spends n k (m >>= f) := by
  intro r b r' h
  obtain ⟨a, u, h1, h2⟩ := bind_eq_ok h
  have h3 := hm r a u h1
  have h4 := hf a u b r' h2
  exact ⟨by omega, h4.2.trans h3.2⟩

theorem Goes.after0 {n k : Nat} {p : DecPhase → Prop} {m : RunM α} {f : α → RunM Unit} (hm : Spends n 0 m)
    (hf : ∀ a, Goes n k p (f a)) : Goes n k p (m >>= f) := by
  intro r r' h
  obtain ⟨a, u, h1, h2⟩ := bind_eq_ok h
  have h3 := hm r a u h1
  have h4 := hf a u r' h2
  exact ⟨by omega, h4.2⟩

theorem Goes.weaken {n j k : Nat} {p q : DecPhase → Prop} {m : RunM Unit} (hm : Goes n j p m) (hk : k ≤ j)
    (hp : ∀ x, p x → q x) : Goes n k q m := by
  intro r r' h
  have := hm r r' h
  exact ⟨by omega, hp _ this.2⟩

theorem Spends.weaken {n j k : Nat} {m : RunM α} (hm : Spends n j m) (hk : k ≤ j) : Spends n k m := by
  intro r a r' h
  have := hm r a r' h
  exact ⟨by omega, this.2⟩

theorem Spends.fail {n k : Nat} (c : Cause) : Spends n k (decFail c : RunM α) := by
  intro r a r' h; simp [decFail] at h

theorem Goes.fail {n k : Nat} {p : DecPhase → Prop} (c : Cause) : Goes n k p (decFail c) := by
  intro r r' h; simp [decFail] at h

theorem Spends.stop {n k : Nat} (code : Code) : Spends n k (done code : RunM α) := by
  intro r a r' h; simp [done] at h

theorem Spends.doneIf {n : Nat} (stop : Bool) (code : Code) : Spends n 0 (doneIf stop code) := by
  intro r a r' h
  cases stop
  · simp only [Machine.doneIf, Bool.false_eq_true, if_false, pure_run, EStateM.Result.ok.injEq] at h
    obtain ⟨-, rfl⟩ := h
    exact ⟨by omega, rfl⟩
  · simp [Machine.doneIf, done] at h

theorem Spends.failIf {n : Nat} (bad : Bool) (c : Cause) : Spends n 0 (failIf bad c) := by
  intro r a r' h
  cases bad
  · simp only [Machine.failIf, Bool.false_eq_true, if_false, pure_run, EStateM.Result.ok.injEq] at h
    obtain ⟨-, rfl⟩ := h
    exact ⟨by omega, rfl⟩
  · simp [Machine.failIf, decFail] at h

theorem Spends.pure {n : Nat} (a : α) : Spends n 0 (pure a : RunM α) := by
  intro r b r' h
  simp only [pure_run, EStateM.Result.ok.injEq] at h
  obtain ⟨-, rfl⟩ := h
  exact ⟨by omega, rfl⟩

theorem Spends.getDec {n : Nat} : Spends n 0 Machine.getDec := by
  intro r a r' h
  simp only [Machine.getDec, bind_run, get_run, pure_run, EStateM.Result.ok.injEq] at h
  obtain ⟨-, rfl⟩ := h
  exact ⟨by omega, rfl⟩

theorem Spends.get {n : Nat} : Spends n 0 (get : RunM Run) := by
  intro r a r' h
  simp only [get_run, EStateM.Result.ok.injEq] at h
  obtain ⟨-, rfl⟩ := h
  exact ⟨by omega, rfl⟩

/-- A change of the run that keeps the bits left and the decoder's state. -/
theorem Spends.modify {n : Nat} {f : Run → Run} (hb : ∀ r, (f r).bitsLeft n = r.bitsLeft n)
    (hp : ∀ r, (f r).s.dec.phase = r.s.dec.phase) : Spends n 0 (modify f : RunM PUnit) := by
  intro r a r' h
  simp only [modify_run, EStateM.Result.ok.injEq] at h
  obtain ⟨-, rfl⟩ := h
  exact ⟨by rw [hb]; omega, hp r⟩

theorem Spends.decModify {n : Nat} {f : Dec → Dec} (hb : ∀ d, (f d).nbits = d.nbits) (hp : ∀ d, (f d).phase = d.phase) :
    Spends n 0 (decModify f) :=
  Spends.modify (fun r => by simp [Run.bitsLeft, hb]) (fun r => by simp [hp])

/-- A change that only lowers the bits held. -/
theorem Spends.decDrop {n : Nat} {f : Dec → Dec} (hb : ∀ d, (f d).nbits ≤ d.nbits) (hp : ∀ d, (f d).phase = d.phase) :
    Spends n 0 (Machine.decModify f) := by
  intro r a r' h
  simp only [Machine.decModify, modify_run, EStateM.Result.ok.injEq] at h
  obtain ⟨-, rfl⟩ := h
  have := hb r.s.dec
  exact ⟨by simp only [Run.bitsLeft, State.setDec_dec]; omega, by simp [hp]⟩

theorem Goes.decGo {n : Nat} (p : DecPhase) : Goes n 0 (· = p) (decGo p) := by
  intro r r' h
  simp only [Machine.decGo, Machine.decModify, modify_run, EStateM.Result.ok.injEq] at h
  obtain ⟨-, rfl⟩ := h
  exact ⟨by simp [Run.bitsLeft], by simp⟩

theorem Spends.busRead {n : Nat} (a : Nat) : Spends n 0 (busRead a) := by
  intro r b r' h
  unfold Machine.busRead at h
  split at h
  · simp only [EStateM.Result.ok.injEq] at h
    obtain ⟨-, rfl⟩ := h
    exact ⟨by omega, rfl⟩
  · simp at h

theorem Spends.busWrite {n : Nat} (a : Nat) (b : Byte) : Spends n 0 (busWrite a b) := by
  intro r u r' h
  unfold Machine.busWrite at h
  split at h
  · simp only [EStateM.Result.ok.injEq] at h
    obtain ⟨-, rfl⟩ := h
    exact ⟨by simp [Run.bitsLeft], by simp⟩
  · simp at h

/-! Bit input. -/

/-- A pull that goes on had a byte to pull, and keeps the bits left. -/
theorem pull_ok {i n : Nat} {r r' : Run} (h : pull i n r = .ok () r') :
    r.c < n ∧ r'.c = r.c + 1 ∧ r'.s.dec.nbits = r.s.dec.nbits + 8 ∧ r'.s.dec.phase = r.s.dec.phase := by
  unfold pull at h
  obtain ⟨a, u, h1, h2⟩ := bind_eq_ok h
  simp only [get_run, EStateM.Result.ok.injEq] at h1
  obtain ⟨rfl, rfl⟩ := h1
  obtain ⟨x, v, h3, h4⟩ := bind_eq_ok h2
  obtain ⟨b, w, h5, h6⟩ := bind_eq_ok h4
  simp only [modify_run, EStateM.Result.ok.injEq] at h6
  obtain ⟨-, rfl⟩ := h6
  have hv : r.c < n ∧ v = r := by
    unfold doneIf at h3
    split at h3
    · simp [done] at h3
    · next hn =>
      simp only [pure_run, EStateM.Result.ok.injEq] at h3
      exact ⟨by simpa using hn, h3.2.symm⟩
  obtain ⟨hn, rfl⟩ := hv
  unfold busRead at h5
  split at h5
  · simp only [EStateM.Result.ok.injEq] at h5
    obtain ⟨-, rfl⟩ := h5
    exact ⟨hn, by simp, by simp [Dec.feed], by simp [Dec.feed]⟩
  · simp at h5

theorem Spends.pull {n : Nat} (i : Nat) : Spends n 0 (pull i n) := by
  intro r a r' h
  obtain ⟨h1, h2, h3, h4⟩ := pull_ok h
  exact ⟨by simp only [Run.bitsLeft, h2, h3]; omega, h4⟩

theorem Spends.needUpTo {n : Nat} (i k left : Nat) : Spends n 0 (needUpTo i n k left) := by
  induction left with
  | zero =>
    unfold Machine.needUpTo
    refine Spends.bind0 Spends.getDec fun d => ?_
    split
    · exact Spends.pull i
    · exact Spends.pure _
  | succ left ih =>
    unfold Machine.needUpTo
    refine Spends.bind0 Spends.getDec fun d => ?_
    split
    · exact Spends.bind0 (Spends.pull i) fun _ => ih
    · exact Spends.pure _

theorem needUpTo_enough {i n k left : Nat} {r r' : Run} (hl : n - r.c ≤ left) (h : needUpTo i n k left r = .ok () r') :
    k ≤ r'.s.dec.nbits := by
  induction left generalizing r with
  | zero =>
    unfold needUpTo at h
    obtain ⟨d, u, h1, h2⟩ := bind_eq_ok h
    simp only [getDec, bind_run, get_run, pure_run, EStateM.Result.ok.injEq] at h1
    obtain ⟨rfl, rfl⟩ := h1
    split at h2
    · have := (pull_ok h2).1; omega
    · simp only [pure_run, EStateM.Result.ok.injEq] at h2; rw [← h2.2]; omega
  | succ left ih =>
    unfold needUpTo at h
    obtain ⟨d, u, h1, h2⟩ := bind_eq_ok h
    simp only [getDec, bind_run, get_run, pure_run, EStateM.Result.ok.injEq] at h1
    obtain ⟨rfl, rfl⟩ := h1
    split at h2
    · obtain ⟨x, v, h3, h4⟩ := bind_eq_ok h2
      obtain ⟨h5, h6, -, -⟩ := pull_ok h3
      exact ih (by omega) h4
    · simp only [pure_run, EStateM.Result.ok.injEq] at h2; rw [← h2.2]; omega

theorem need_enough {i n k : Nat} {r r' : Run} (h : need i n k r = .ok () r') : k ≤ r'.s.dec.nbits := by
  unfold need at h
  obtain ⟨a, u, h1, h2⟩ := bind_eq_ok h
  simp only [get_run, EStateM.Result.ok.injEq] at h1
  obtain ⟨rfl, rfl⟩ := h1
  exact needUpTo_enough (le_refl _) h2

theorem Spends.need {n : Nat} (i k : Nat) : Spends n 0 (need i n k) := by
  unfold Machine.need
  exact Spends.bind0 Spends.get fun r => Spends.needUpTo _ _ _

/-- take(k) uses k bits. -/
theorem Spends.take {n : Nat} (i k : Nat) : Spends n k (take i n k) := by
  intro r a r' h
  unfold Machine.take at h
  obtain ⟨x, u, h1, h2⟩ := bind_eq_ok h
  have hk := need_enough h1
  have hb := Spends.need i k r () u h1
  simp only [Machine.getDec, bind_run, get_run, pure_run, Machine.decModify, modify_run, EStateM.Result.ok.injEq] at h2
  obtain ⟨-, rfl⟩ := h2
  refine ⟨?_, by simpa [Dec.drop] using hb.2⟩
  have h3 := hb.1
  simp only [Run.bitsLeft, State.setDec_dec, Dec.drop] at h3 ⊢
  omega

/-- A decoded symbol's code is one of the table's, within the bits held. -/
theorem decodeBits_symbol {ws : List CodeWord} {b c i l : Nat} (h : decodeBits ws b c = .symbol i l) :
    ∃ w ∈ ws, w.sym = i ∧ w.len = l ∧ l ≤ c := by
  unfold decodeBits at h
  split at h
  · next w hw =>
    simp only [Decoded.symbol.injEq] at h
    have h1 := List.find?_some hw
    simp only [CodeWord.within, Bool.and_eq_true, decide_eq_true_eq] at h1
    exact ⟨w, List.mem_of_find?_eq_some hw, h.1, h.2, h.2 ▸ h1.1⟩
  · split at h <;> simp at h

theorem codeWords_pos {len : List Nat} {w : CodeWord} (h : w ∈ codeWords len) : 0 < w.len := by
  unfold codeWords at h
  simp only [List.mem_map, List.mem_filter] at h
  obtain ⟨e, ⟨-, he⟩, rfl⟩ := h
  simpa using he

/-- Taking a decoded symbol uses at least one bit. -/
theorem takeSymbol_spends {n : Nat} {ws : List CodeWord} (hw : ∀ w ∈ ws, 0 < w.len) {r r' : Run} {s l a : Nat}
    (hd : decodeBits ws r.s.dec.bitbuf.toNat r.s.dec.nbits = .symbol s l)
    (h : (decModify (fun d => d.drop l) >>= fun _ => (pure s : RunM Nat)) r = .ok a r') :
    r'.bitsLeft n + 1 ≤ r.bitsLeft n ∧ r'.s.dec.phase = r.s.dec.phase := by
  obtain ⟨w, hw1, -, hw3, hw4⟩ := decodeBits_symbol hd
  have := hw w hw1
  simp only [decModify, bind_run, modify_run, pure_run, EStateM.Result.ok.injEq] at h
  obtain ⟨-, rfl⟩ := h
  refine ⟨?_, by simp [Dec.drop]⟩
  simp only [Run.bitsLeft, State.setDec_dec, Dec.drop]
  omega

/-- A symbol uses at least one bit. -/
theorem Spends.symUpTo {n : Nat} (i : Nat) {ws : List CodeWord} (hw : ∀ w ∈ ws, 0 < w.len) (left : Nat) :
    Spends n 1 (symUpTo i n ws left) := by
  induction left with
  | zero =>
    intro r a r' h
    unfold Machine.symUpTo at h
    obtain ⟨d, u, h1, h2⟩ := bind_eq_ok h
    simp only [Machine.getDec, bind_run, get_run, pure_run, EStateM.Result.ok.injEq] at h1
    obtain ⟨rfl, rfl⟩ := h1
    cases hd : decodeBits ws r.s.dec.bitbuf.toNat r.s.dec.nbits <;> rw [hd] at h2
    · exact takeSymbol_spends hw hd h2
    · simp [done] at h2
    · simp [decFail] at h2
  | succ left ih =>
    intro r a r' h
    unfold Machine.symUpTo at h
    obtain ⟨d, u, h1, h2⟩ := bind_eq_ok h
    simp only [Machine.getDec, bind_run, get_run, pure_run, EStateM.Result.ok.injEq] at h1
    obtain ⟨rfl, rfl⟩ := h1
    cases hd : decodeBits ws r.s.dec.bitbuf.toNat r.s.dec.nbits <;> rw [hd] at h2
    · exact takeSymbol_spends hw hd h2
    · exact Spends.bind0 (Spends.pull i) (fun _ => ih) r a r' h2
    · simp [decFail] at h2

theorem Spends.sym {n : Nat} (i : Nat) (t : Fin 4) : Spends n 1 (sym i n t) := by
  unfold Machine.sym
  exact (Spends.bind0 Spends.get fun r => Spends.symUpTo i (fun w h => codeWords_pos h) _).weaken (by omega)

/-! Output. -/

theorem Spends.checkRoom {n : Nat} (m : Nat) : Spends n 0 (checkRoom m) := by
  unfold Machine.checkRoom
  exact Spends.bind0 Spends.get fun r => Spends.doneIf _ _

theorem Spends.putByte {n : Nat} (o : Nat) (b : Byte) : Spends n 0 (putByte o b) := by
  unfold Machine.putByte
  refine Spends.bind0 Spends.get fun r => Spends.bind0 (Spends.busWrite _ _) fun _ => ?_
  exact Spends.modify (fun r => by simp [Run.bitsLeft]) (fun r => by simp)

theorem Spends.histByte {n : Nat} (dist : Nat) : Spends n 0 (histByte dist) := by
  unfold Machine.histByte
  refine Spends.bind0 Spends.get fun r => ?_
  split
  · exact Spends.pure _
  · exact Spends.busRead _
  · exact Spends.busRead _

theorem Spends.runSetSlot {n : Nat} (k : Fin 4) (v : Slot) : Spends n 0 (runSetSlot k v) :=
  Spends.modify (fun _ => rfl) (fun _ => rfl)

theorem Spends.buildSlot {n : Nat} (k : Fin 4) (len : List Nat) (c : Cause) : Spends n 0 (buildSlot k len c) := by
  unfold Machine.buildSlot
  refine Spends.bind0 (Spends.runSetSlot _ _) fun _ => ?_
  split
  · exact Spends.pure _
  · exact Spends.fail _

theorem Spends.skipBits {n : Nat} : Spends n 0 skipBits :=
  Spends.decDrop (fun d => by simp [Dec.drop]) (fun d => by simp [Dec.drop])

theorem Goes.afterBlock {n : Nat} : Goes n 0 (fun p => p = .bhdr ∨ p = .ztrailer ∨ p = .done) afterBlock := by
  unfold Machine.afterBlock
  refine Goes.after0 Spends.getDec fun d => ?_
  split
  · refine Goes.after0 Spends.skipBits fun _ => (Goes.decGo _).weaken (le_refl _) fun x hx => ?_
    cases hz : d.zlib <;> simp_all
  · exact (Goes.decGo _).weaken (le_refl _) fun x hx => .inl hx

/-! The work of each state. -/

theorem Goes.workZhdr {n : Nat} (i : Nat) : Goes n 16 (· = .bhdr) (workZhdr i n) := by
  unfold Machine.workZhdr
  refine Goes.after (k := 0) (Spends.take i 16) fun v => Goes.after0 Spends.getDec fun d => ?_
  exact Goes.after0 (Spends.failIf _ _) fun _ => Goes.after0 (Spends.failIf _ _) fun _ => Goes.decGo _

theorem Goes.workBhdr {n : Nat} (i : Nat) :
    Goes n 3 (fun p => p = .storedLen ∨ p = .dataSym ∨ p = .dynCounts) (workBhdr i n) := by
  unfold Machine.workBhdr
  refine Goes.after (k := 0) (Spends.take i 3) fun h =>
    Goes.after0 (Spends.decModify (fun d => rfl) (fun d => rfl)) fun _ => ?_
  split
  · exact (Goes.after0 Spends.skipBits fun _ => Goes.decGo _).weaken (le_refl _) fun x hx => .inl hx
  · split
    · exact (Goes.after0 (Spends.runSetSlot _ _) fun _ => Goes.after0 (Spends.runSetSlot _ _) fun _ =>
        Goes.decGo _).weaken (le_refl _) fun x hx => .inr (.inl hx)
    · split
      · exact (Goes.decGo _).weaken (le_refl _) fun x hx => .inr (.inr hx)
      · exact Goes.fail _

theorem Goes.workStoredLen {n : Nat} (i : Nat) : Goes n 32 (· = .storedCopy) (workStoredLen i n) := by
  unfold Machine.workStoredLen
  exact Goes.after (k := 0) (Spends.take i 32) fun v => Goes.after0 (Spends.failIf _ _) fun _ =>
    Goes.after0 (Spends.decModify (fun d => rfl) (fun d => rfl)) fun _ => Goes.decGo _

theorem Spends.storedCopy {n : Nat} (i o m k : Nat) : Spends n 0 (storedCopy i n o m k) := by
  induction k with
  | zero => exact Spends.pure _
  | succ k ih =>
    unfold Machine.storedCopy
    exact Spends.bind0 (Spends.checkRoom m) fun _ => Spends.bind0 ((Spends.take i 8).weaken (Nat.zero_le _)) fun b =>
      Spends.bind0 (Spends.putByte o _) fun _ => Spends.bind0 (Spends.decModify (fun d => rfl) (fun d => rfl)) fun _ => ih

theorem Goes.workStoredCopy {n : Nat} (i o m : Nat) :
    Goes n 0 (fun p => p = .bhdr ∨ p = .ztrailer ∨ p = .done) (workStoredCopy i n o m) := by
  unfold Machine.workStoredCopy
  exact Goes.after0 Spends.getDec fun d => Goes.after0 (Spends.storedCopy i o m _) fun _ => Goes.afterBlock

theorem Goes.workDynCounts {n : Nat} (i : Nat) : Goes n 14 (· = .dynClen) (workDynCounts i n) := by
  unfold Machine.workDynCounts
  exact Goes.after (k := 0) (Spends.take i 14) fun v =>
    Goes.after0 (Spends.decModify (fun d => rfl) (fun d => rfl)) fun _ => Goes.after0 (Spends.failIf _ _) fun _ =>
    Goes.after0 (Spends.decModify (fun d => rfl) (fun d => rfl)) fun _ => Goes.decGo _

theorem Spends.clenLoop {n : Nat} (i k : Nat) : Spends n 0 (clenLoop i n k) := by
  induction k with
  | zero => exact Spends.pure _
  | succ k ih =>
    unfold Machine.clenLoop
    exact Spends.bind0 ((Spends.take i 3).weaken (Nat.zero_le _)) fun v =>
      Spends.bind0 (Spends.decModify (fun d => rfl) (fun d => rfl)) fun _ => ih

theorem Goes.workDynClen {n : Nat} (i : Nat) : Goes n 0 (· = .dynLens) (workDynClen i n) := by
  unfold Machine.workDynClen
  exact Goes.after0 Spends.getDec fun d => Goes.after0 (Spends.clenLoop i _) fun _ => Goes.after0 Spends.getDec fun d =>
    Goes.after0 (Spends.buildSlot _ _ _) fun _ => Goes.after0 (Spends.decModify (fun d => rfl) (fun d => rfl)) fun _ =>
    Goes.decGo _

theorem Spends.appendRepeat {n : Nat} (bad : Bool) (r v : Nat) : Spends n 0 (appendRepeat bad r v) := by
  unfold Machine.appendRepeat
  exact Spends.bind0 (Spends.decModify (fun d => rfl) (fun d => rfl)) fun _ => Spends.bind0 (Spends.failIf _ _) fun _ =>
    Spends.decModify (fun d => rfl) (fun d => rfl)

theorem Spends.repeatLens {n : Nat} (i t s : Nat) : Spends n 0 (repeatLens i n t s) := by
  unfold Machine.repeatLens
  split
  · exact Spends.bind0 ((Spends.take i 2).weaken (Nat.zero_le _)) fun v => Spends.bind0 Spends.getDec fun d =>
      Spends.appendRepeat _ _ _
  · split
    · exact Spends.bind0 ((Spends.take i 3).weaken (Nat.zero_le _)) fun v => Spends.bind0 Spends.getDec fun d =>
        Spends.appendRepeat _ _ _
    · split
      · exact Spends.bind0 ((Spends.take i 7).weaken (Nat.zero_le _)) fun v => Spends.bind0 Spends.getDec fun d =>
          Spends.appendRepeat _ _ _
      · exact Spends.decModify (fun d => rfl) (fun d => rfl)

theorem Spends.lensItem {n : Nat} (i t : Nat) : Spends n 0 (lensItem i n t) := by
  unfold Machine.lensItem
  refine Spends.bind0 Spends.getDec fun d => ?_
  split
  · exact Spends.repeatLens i t _
  · refine Spends.bind0 ((Spends.sym i 2).weaken (Nat.zero_le _)) fun s => ?_
    split
    · exact Spends.decModify (fun d => rfl) (fun d => rfl)
    · exact Spends.bind0 (Spends.decModify (fun d => rfl) (fun d => rfl)) fun _ => Spends.repeatLens i t _

theorem Spends.lensLoop {n : Nat} (i t k : Nat) : Spends n 0 (lensLoop i n t k) := by
  induction k with
  | zero => exact Spends.pure _
  | succ k ih =>
    unfold Machine.lensLoop
    refine Spends.bind0 Spends.getDec fun d => ?_
    split
    · exact Spends.bind0 (Spends.lensItem i t) fun _ => ih
    · exact Spends.pure _

theorem Goes.workDynLens {n : Nat} (i : Nat) : Goes n 0 (· = .dataSym) (workDynLens i n) := by
  unfold Machine.workDynLens Machine.lensDone
  exact Goes.after0 Spends.getDec fun d => Goes.after0 (Spends.lensLoop i _ _) fun _ => Goes.after0 Spends.getDec fun d =>
    Goes.after0 (Spends.buildSlot _ _ _) fun _ => Goes.after0 (Spends.buildSlot _ _ _) fun _ =>
    Goes.after0 (Spends.failIf _ _) fun _ => Goes.decGo _

theorem Goes.workDataSym {n : Nat} (i : Nat) :
    Goes n 1 (fun p => p = .litOut ∨ p = .lenExtra ∨ p = .bhdr ∨ p = .ztrailer ∨ p = .done) (workDataSym i n) := by
  unfold Machine.workDataSym
  refine Goes.after (k := 0) (Spends.sym i 0) fun s => ?_
  split
  · refine Goes.weaken (p := (· = .litOut)) (j := 0) ?_ (le_refl _) fun x hx => .inl hx
    exact Goes.after0 (Spends.decModify (fun d => rfl) (fun d => rfl)) fun _ => Goes.decGo _
  · split
    · exact Goes.afterBlock.weaken (le_refl _) fun x hx => .inr (.inr hx)
    · split
      · refine Goes.weaken (p := (· = .lenExtra)) (j := 0) ?_ (le_refl _) fun x hx => .inr (.inl hx)
        exact Goes.after0 (Spends.decModify (fun d => rfl) (fun d => rfl)) fun _ => Goes.decGo _
      · exact Goes.fail _

theorem Goes.workLitOut {n : Nat} (o m : Nat) : Goes n 0 (· = .dataSym) (workLitOut o m) := by
  unfold Machine.workLitOut
  exact Goes.after0 (Spends.checkRoom m) fun _ => Goes.after0 Spends.getDec fun d =>
    Goes.after0 (Spends.putByte o _) fun _ => Goes.decGo _

theorem Goes.workLenExtra {n : Nat} (i : Nat) : Goes n 0 (· = .distSym) (workLenExtra i n) := by
  unfold Machine.workLenExtra
  exact Goes.after0 Spends.getDec fun d => Goes.after0 ((Spends.take i _).weaken (Nat.zero_le _)) fun v =>
    Goes.after0 (Spends.decModify (fun d => rfl) (fun d => rfl)) fun _ => Goes.decGo _

theorem Goes.workDistSym {n : Nat} (i : Nat) : Goes n 1 (· = .distExtra) (workDistSym i n) := by
  unfold Machine.workDistSym
  exact Goes.after (k := 0) (Spends.sym i 1) fun s => Goes.after0 (Spends.failIf _ _) fun _ =>
    Goes.after0 (Spends.decModify (fun d => rfl) (fun d => rfl)) fun _ => Goes.decGo _

theorem Goes.workDistExtra {n : Nat} (i : Nat) : Goes n 0 (· = .copy) (workDistExtra i n) := by
  unfold Machine.workDistExtra
  exact Goes.after0 Spends.getDec fun d => Goes.after0 ((Spends.take i _).weaken (Nat.zero_le _)) fun v =>
    Goes.after0 (Spends.decModify (fun d => rfl) (fun d => rfl)) fun _ => Goes.after0 Spends.getDec fun d =>
    Goes.after0 (Spends.failIf _ _) fun _ => Goes.decGo _

theorem Spends.copyLoop {n : Nat} (o m k : Nat) : Spends n 0 (copyLoop o m k) := by
  induction k with
  | zero => exact Spends.pure _
  | succ k ih =>
    unfold Machine.copyLoop
    exact Spends.bind0 (Spends.checkRoom m) fun _ => Spends.bind0 Spends.getDec fun d =>
      Spends.bind0 (Spends.histByte _) fun b => Spends.bind0 (Spends.putByte o _) fun _ =>
      Spends.bind0 (Spends.decModify (fun d => rfl) (fun d => rfl)) fun _ => ih

theorem Goes.workCopy {n : Nat} (o m : Nat) : Goes n 0 (· = .dataSym) (workCopy o m) := by
  unfold Machine.workCopy
  exact Goes.after0 Spends.getDec fun d => Goes.after0 (Spends.copyLoop o m _) fun _ => Goes.decGo _

theorem Goes.workZtrailer {n : Nat} (i : Nat) : Goes n 32 (· = .done) (workZtrailer i n) := by
  unfold Machine.workZtrailer
  exact Goes.after (k := 0) (Spends.take i 32) fun v => Goes.after0 Spends.getDec fun d =>
    Goes.after0 (Spends.failIf _ _) fun _ => Goes.decGo _

/-! The loop. -/

/-- A state DEC_RUN works in, or DONE, is not IDLE and not FAILED. -/
def DecPhase.live (p : DecPhase) : Prop := p ≠ .idle ∧ p ≠ .failed

/-- A round that goes on in an open stream lowers the measure, and leaves an open stream or one in DONE. -/
theorem decWork_decreases {i n o m : Nat} {r r' : Run} (hp : r.s.dec.phase.live) (hd : r.s.dec.phase ≠ .done)
    (h : decWork i n o m r.s.dec.phase r = .ok () r') :
    r'.decMeasure n < r.decMeasure n ∧ r'.s.dec.phase.live := by
  have key : ∀ {k : Nat} {p : DecPhase → Prop}, Goes n k p (decWork i n o m r.s.dec.phase) →
      (∀ x, p x → x.live ∧ x.rank < r.s.dec.phase.rank + 3 * k) →
      r'.decMeasure n < r.decMeasure n ∧ r'.s.dec.phase.live := by
    intro k p hg hr
    obtain ⟨h1, h2⟩ := hg r r' h
    obtain ⟨h3, h4⟩ := hr _ h2
    refine ⟨?_, h3⟩
    simp only [Run.bitsLeft] at h1
    simp only [Run.decMeasure]
    omega
  cases hph : r.s.dec.phase <;> rw [hph] at key hp hd <;> simp only [decWork] at key
  case idle => exact absurd rfl hp.1
  case failed => exact absurd rfl hp.2
  case done => exact absurd rfl hd
  case zhdr => exact key (Goes.workZhdr i) (by rintro x rfl; simp [DecPhase.live, DecPhase.rank])
  case bhdr => exact key (Goes.workBhdr i) (by rintro x (rfl | rfl | rfl) <;> simp [DecPhase.live, DecPhase.rank])
  case storedLen => exact key (Goes.workStoredLen i) (by rintro x rfl; simp [DecPhase.live, DecPhase.rank])
  case storedCopy =>
    exact key (Goes.workStoredCopy i o m) (by rintro x (rfl | rfl | rfl) <;> simp [DecPhase.live, DecPhase.rank])
  case dynCounts => exact key (Goes.workDynCounts i) (by rintro x rfl; simp [DecPhase.live, DecPhase.rank])
  case dynClen => exact key (Goes.workDynClen i) (by rintro x rfl; simp [DecPhase.live, DecPhase.rank])
  case dynLens => exact key (Goes.workDynLens i) (by rintro x rfl; simp [DecPhase.live, DecPhase.rank])
  case dataSym =>
    exact key (Goes.workDataSym i)
      (by rintro x (rfl | rfl | rfl | rfl | rfl) <;> simp [DecPhase.live, DecPhase.rank])
  case litOut => exact key (Goes.workLitOut o m) (by rintro x rfl; simp [DecPhase.live, DecPhase.rank])
  case lenExtra => exact key (Goes.workLenExtra i) (by rintro x rfl; simp [DecPhase.live, DecPhase.rank])
  case distSym => exact key (Goes.workDistSym i) (by rintro x rfl; simp [DecPhase.live, DecPhase.rank])
  case distExtra => exact key (Goes.workDistExtra i) (by rintro x rfl; simp [DecPhase.live, DecPhase.rank])
  case copy => exact key (Goes.workCopy o m) (by rintro x rfl; simp [DecPhase.live, DecPhase.rank])
  case ztrailer => exact key (Goes.workZtrailer i) (by rintro x rfl; simp [DecPhase.live, DecPhase.rank])

/-- With more fuel than the measure, the loop of an open stream that goes on to its end is in DONE. -/
theorem decLoop_done {i n o m fuel : Nat} {r r' : Run} (hp : r.s.dec.phase.live) (hd : r.s.dec.phase ≠ .done)
    (hf : r.decMeasure n < fuel) (h : decLoop i n o m fuel r = .ok () r') : r'.s.dec.phase = .done := by
  induction fuel generalizing r with
  | zero => omega
  | succ fuel ih =>
    unfold decLoop at h
    obtain ⟨d, u, h1, h2⟩ := bind_eq_ok h
    simp only [getDec, bind_run, get_run, pure_run, EStateM.Result.ok.injEq] at h1
    obtain ⟨rfl, rfl⟩ := h1
    obtain ⟨x, v, h3, h4⟩ := bind_eq_ok h2
    obtain ⟨h5, h6⟩ := decWork_decreases hp hd h3
    obtain ⟨d', w, h7, h8⟩ := bind_eq_ok h4
    simp only [getDec, bind_run, get_run, pure_run, EStateM.Result.ok.injEq] at h7
    obtain ⟨rfl, rfl⟩ := h7
    split at h8
    · next hv =>
      simp only [pure_run, EStateM.Result.ok.injEq] at h8
      rw [← h8.2]; exact hv
    · next hv => exact ih h6 hv (by omega) h8

/-- DEC_RUN's loop in an open stream ends in DONE, a suspension or a failure. -/
theorem decBody_done {i n o m : Nat} {r r' : Run} (hp : r.s.dec.phase.live) (hd : r.s.dec.phase ≠ .done)
    (h : decBody i n o m r = .ok () r') : r'.s.dec.phase = .done := by
  unfold decBody at h
  obtain ⟨d, u, h1, h2⟩ := bind_eq_ok h
  simp only [get_run, EStateM.Result.ok.injEq] at h1
  obtain ⟨rfl, rfl⟩ := h1
  exact decLoop_done hp hd (Nat.lt_succ_self _) h2

end Sys2Proof.Machine
end

