-- ==== Sys2Proof/Laws/PerInstr.lean ====
section
/-! SUPPORT. Per-instruction facts about the syntax. Family Row: every command word the encoder writes is legal for its row of
30_encoding.md R184: its masked bits are the row's match. -/

namespace Sys2Proof.Laws

/-- The mask of a command's row (30_encoding.md R184). -/
def rowMask : Instr → Word
  | .nop => 0xFFFFFFFF#32
  | .reset => 0xFFFFFFFF#32
  | .crcInit => 0xFFFFFFFF#32
  | .crcUpdate => 0xFFFFFFFF#32
  | .crcByte _ => 0xFFFF00FF#32
  | .adlerInit => 0xFFFFFFFF#32
  | .adlerUpdate => 0xFFFFFFFF#32
  | .adlerByte _ => 0xFFFF00FF#32
  | .hufLengths _ => 0xFFF0FFFF#32
  | .hufCodes _ => 0xFFFFFEFF#32
  | .hufDtable _ => 0xFFFFFCFF#32
  | .hufDecode _ => 0xFFFFFCFF#32
  | .hufPeek _ _ _ => 0x0000F8FF#32
  | .lzFind _ _ _ => 0x0000FCFF#32
  | .lzHash _ => 0xFFFFFEFF#32
  | .encInit _ _ _ _ _ _ => 0xFFE000FF#32
  | .encRun _ => 0xFFFFF8FF#32
  | .decInit _ _ _ => 0xFFFFF0FF#32
  | .decRun => 0xFFFFFFFF#32
  | .zipNameCheck => 0xFFFFFFFF#32
  | .zipLhWrite _ => 0x0000FFFF#32
  | .zipCdWrite => 0xFFFFFFFF#32
  | .zipEocdWrite => 0xFFFFFFFF#32
  | .zipEocdFind => 0xFFFFFFFF#32
  | .zipCdParse => 0xFFFFFFFF#32
  | .zipLhCheck => 0xFFFFFFFF#32
  | .zipNameCmp _ => 0xFFFFFEFF#32
  | .zipVerify => 0xFFFFFFFF#32

/-- The match of a command's row (30_encoding.md R184). -/
def rowMatch : Instr → Word
  | .nop => 0x00000000#32
  | .reset => 0x00000001#32
  | .crcInit => 0x00000010#32
  | .crcUpdate => 0x00000011#32
  | .crcByte _ => 0x00000012#32
  | .adlerInit => 0x00000014#32
  | .adlerUpdate => 0x00000015#32
  | .adlerByte _ => 0x00000016#32
  | .hufLengths _ => 0x00000020#32
  | .hufCodes _ => 0x00000021#32
  | .hufDtable _ => 0x00000022#32
  | .hufDecode _ => 0x00000023#32
  | .hufPeek _ _ _ => 0x00000024#32
  | .lzFind _ _ _ => 0x00000030#32
  | .lzHash _ => 0x00000031#32
  | .encInit _ _ _ _ _ _ => 0x00000040#32
  | .encRun _ => 0x00000041#32
  | .decInit _ _ _ => 0x00000050#32
  | .decRun => 0x00000051#32
  | .zipNameCheck => 0x00000060#32
  | .zipLhWrite _ => 0x00000061#32
  | .zipCdWrite => 0x00000062#32
  | .zipEocdWrite => 0x00000063#32
  | .zipEocdFind => 0x00000064#32
  | .zipCdParse => 0x00000065#32
  | .zipLhCheck => 0x00000066#32
  | .zipNameCmp _ => 0x00000067#32
  | .zipVerify => 0x00000068#32

/-- A command word and its mask, cut at the borders of IMM, MOD and OPC. -/
theorem packWord_and (opc mod imm : Nat) (mi : BitVec 16) (mm mo : BitVec 8) :
    packWord opc mod imm &&& (mi ++ mm ++ mo)
      = (BitVec.ofNat 16 imm &&& mi) ++ (BitVec.ofNat 8 mod &&& mm) ++ (BitVec.ofNat 8 opc &&& mo) := by
  apply BitVec.eq_of_getLsbD_eq
  intro i hi
  simp only [packWord, BitVec.getLsbD_and, BitVec.getLsbD_append]
  by_cases h : i < 8
  · simp [h]
  · by_cases h' : i - 8 < 8
    · simp [h, h']
    · simp [h, h']

/-- A command word is legal for its row if each of its three fields is. -/
theorem packWord_masked {opc mod imm : Nat} {mi ri : BitVec 16} {mm rm mo ro : BitVec 8} {mask row : Word}
    (hm : mask = mi ++ mm ++ mo) (hr : row = ri ++ rm ++ ro) (hi : BitVec.ofNat 16 imm &&& mi = ri)
    (hd : BitVec.ofNat 8 mod &&& mm = rm) (ho : BitVec.ofNat 8 opc &&& mo = ro) :
    packWord opc mod imm &&& mask = row := by
  rw [hm, hr, packWord_and, hi, hd, ho]

/-- The word the encoder writes for a well-formed command agrees with its row. -/
def Row.Statement (i : Instr) : Prop := i.wellFormed = true → encode i &&& rowMask i = rowMatch i

theorem Row.nop : Row.Statement (.nop) :=
  fun _ => by decide

theorem Row.reset : Row.Statement (.reset) :=
  fun _ => by decide

theorem Row.crcInit : Row.Statement (.crcInit) :=
  fun _ => by decide

theorem Row.crcUpdate : Row.Statement (.crcUpdate) :=
  fun _ => by decide

theorem Row.crcByte (b : Byte) : Row.Statement (.crcByte b) := fun _ =>
  packWord_masked (mi := 0xFFFF#16) (mm := 0x00#8) (mo := 0xFF#8) (ri := 0x0000#16) (rm := 0x00#8)
    (ro := 0x12#8) rfl rfl
    (by decide)
    BitVec.and_zero rfl

theorem Row.adlerInit : Row.Statement (.adlerInit) :=
  fun _ => by decide

theorem Row.adlerUpdate : Row.Statement (.adlerUpdate) :=
  fun _ => by decide

theorem Row.adlerByte (b : Byte) : Row.Statement (.adlerByte b) := fun _ =>
  packWord_masked (mi := 0xFFFF#16) (mm := 0x00#8) (mo := 0xFF#8) (ri := 0x0000#16) (rm := 0x00#8)
    (ro := 0x16#8) rfl rfl
    (by decide)
    BitVec.and_zero rfl

theorem Row.hufLengths (maxlen : Nat) : Row.Statement (.hufLengths maxlen) := fun h =>
  packWord_masked (mi := 0xFFF0#16) (mm := 0xFF#8) (mo := 0xFF#8) (ri := 0x0000#16) (rm := 0x00#8)
    (ro := 0x20#8) rfl rfl
    (by simp only [Instr.wellFormed, decide_eq_true_eq] at h; interval_cases maxlen <;> decide)
    (by decide) rfl

theorem Row.hufCodes (reverse : Bool) : Row.Statement (.hufCodes reverse) := fun h =>
  packWord_masked (mi := 0xFFFF#16) (mm := 0xFE#8) (mo := 0xFF#8) (ri := 0x0000#16) (rm := 0x00#8)
    (ro := 0x21#8) rfl rfl
    (by decide)
    (by clear h; revert reverse; decide) rfl

theorem Row.hufDtable (slot : Fin 4) : Row.Statement (.hufDtable slot) := fun h =>
  packWord_masked (mi := 0xFFFF#16) (mm := 0xFC#8) (mo := 0xFF#8) (ri := 0x0000#16) (rm := 0x00#8)
    (ro := 0x22#8) rfl rfl
    (by decide)
    (by clear h; revert slot; decide) rfl

theorem Row.hufDecode (slot : Fin 4) : Row.Statement (.hufDecode slot) := fun h =>
  packWord_masked (mi := 0xFFFF#16) (mm := 0xFC#8) (mo := 0xFF#8) (ri := 0x0000#16) (rm := 0x00#8)
    (ro := 0x23#8) rfl rfl
    (by decide)
    (by clear h; revert slot; decide) rfl

theorem Row.hufPeek (slot : Fin 4) (tree : Bool) (index : Nat) : Row.Statement (.hufPeek slot tree index) := fun h =>
  packWord_masked (mi := 0x0000#16) (mm := 0xF8#8) (mo := 0xFF#8) (ri := 0x0000#16) (rm := 0x00#8)
    (ro := 0x24#8) rfl rfl
    BitVec.and_zero
    (by clear h; revert slot tree; decide) rfl

theorem Row.lzFind (reject : Bool) (filter : Bool) (probes : Nat)
    : Row.Statement (.lzFind reject filter probes) := fun h =>
  packWord_masked (mi := 0x0000#16) (mm := 0xFC#8) (mo := 0xFF#8) (ri := 0x0000#16) (rm := 0x00#8)
    (ro := 0x30#8) rfl rfl
    BitVec.and_zero
    (by clear h; revert reject filter; decide) rfl

theorem Row.lzHash (fast : Bool) : Row.Statement (.lzHash fast) := fun h =>
  packWord_masked (mi := 0xFFFF#16) (mm := 0xFE#8) (mo := 0xFF#8) (ri := 0x0000#16) (rm := 0x00#8)
    (ro := 0x31#8) rfl rfl
    (by decide)
    (by clear h; revert fast; decide) rfl

theorem Row.encInit (level : Nat) (zlib : Bool) (forceStatic : Bool) (filter : Bool) (crcTap : Bool) (probesOvr : Bool)
    : Row.Statement (.encInit level zlib forceStatic filter crcTap probesOvr) := fun h =>
  packWord_masked (mi := 0xFFE0#16) (mm := 0x00#8) (mo := 0xFF#8) (ri := 0x0000#16) (rm := 0x00#8)
    (ro := 0x40#8) rfl rfl
    (by clear h; revert zlib forceStatic filter crcTap probesOvr; decide)
    BitVec.and_zero rfl

theorem Row.encRun (flush : Nat) : Row.Statement (.encRun flush) := fun h =>
  packWord_masked (mi := 0xFFFF#16) (mm := 0xF8#8) (mo := 0xFF#8) (ri := 0x0000#16) (rm := 0x00#8)
    (ro := 0x41#8) rfl rfl
    (by decide)
    (by simp only [Instr.wellFormed, decide_eq_true_eq] at h; interval_cases flush <;> decide) rfl

theorem Row.decInit (zlib : Bool) (omode : Nat) (crcTap : Bool)
    : Row.Statement (.decInit zlib omode crcTap) := fun h =>
  packWord_masked (mi := 0xFFFF#16) (mm := 0xF0#8) (mo := 0xFF#8) (ri := 0x0000#16) (rm := 0x00#8)
    (ro := 0x50#8) rfl rfl
    (by decide)
    (by simp only [Instr.wellFormed, decide_eq_true_eq] at h; interval_cases omode <;> revert zlib crcTap <;> decide) rfl

theorem Row.decRun : Row.Statement (.decRun) :=
  fun _ => by decide

theorem Row.zipNameCheck : Row.Statement (.zipNameCheck) :=
  fun _ => by decide

theorem Row.zipLhWrite (align : Nat) : Row.Statement (.zipLhWrite align) := fun _ =>
  packWord_masked (mi := 0x0000#16) (mm := 0xFF#8) (mo := 0xFF#8) (ri := 0x0000#16) (rm := 0x00#8)
    (ro := 0x61#8) rfl rfl
    BitVec.and_zero
    (by decide) rfl

theorem Row.zipCdWrite : Row.Statement (.zipCdWrite) :=
  fun _ => by decide

theorem Row.zipEocdWrite : Row.Statement (.zipEocdWrite) :=
  fun _ => by decide

theorem Row.zipEocdFind : Row.Statement (.zipEocdFind) :=
  fun _ => by decide

theorem Row.zipCdParse : Row.Statement (.zipCdParse) :=
  fun _ => by decide

theorem Row.zipLhCheck : Row.Statement (.zipLhCheck) :=
  fun _ => by decide

theorem Row.zipNameCmp (caseSensitive : Bool) : Row.Statement (.zipNameCmp caseSensitive) := fun h =>
  packWord_masked (mi := 0xFFFF#16) (mm := 0xFE#8) (mo := 0xFF#8) (ri := 0x0000#16) (rm := 0x00#8)
    (ro := 0x67#8) rfl rfl
    (by decide)
    (by clear h; revert caseSensitive; decide) rfl

theorem Row.zipVerify : Row.Statement (.zipVerify) :=
  fun _ => by decide

end Sys2Proof.Laws
end

