-- ==== Sys2Proof/Tests/Slice0.lean ====
section
/-! SUPPORT. The model's own tests: the well-formedness smoke, one written-out command word for each command, small steps with
the results spec/ gives them, and a witness for the hypotheses of every statement that has some. -/

set_option Elab.async false

namespace Sys2Proof.Tests

open Sys2Proof Sys2Proof.Machine Sys2Proof.Claims

/-! States and outcomes. -/

/-- The bytes of ASCII text. -/
def ascii (t : String) : List Byte := t.toList.map (fun c => BitVec.ofNat 8 c.toNat)

/-- Host memory with byte strings placed in it. -/
def placed (parts : List (Nat × List Byte)) : Memory :=
  parts.foldl (fun m p => p.2.zipIdx.foldl (fun m e => m.write (p.1 + e.2) e.1) m) []

/-- Host memory after reset with operands and byte strings placed. -/
def demo (a0 a1 a2 a3 : Word) (parts : List (Nat × List Byte)) : State :=
  { State.reset with
    args := { Args.reset with a0 := a0, a1 := a1, a2 := a2, a3 := a3 }
    mem := placed parts }

/-- What a command leaves, read by `f`. -/
def after {α : Type} (i : Instr) (s : State) (f : State → α) : Option α :=
  match exec i s with
  | .next t => some (f t)
  | .fault _ => none
  | .refused _ => none

/-- What the machine's next step leaves, read by `f`. -/
def stepped {α : Type} (s : State) (f : State → α) : Option α :=
  match step s with
  | .next t => some (f t)
  | .fault _ => none
  | .refused _ => none

/-- Two commands in turn. -/
def then2 {α : Type} (i j : Instr) (s : State) (f : State → α) : Option α :=
  match exec i s with
  | .next t => after j t f
  | .fault _ => none
  | .refused _ => none

/-- The completion record of a state: code, cause, detail and results. -/
def record (s : State) : Byte × Byte × Word × Word × Word :=
  (s.status.code, s.errCause, s.errInfo, s.result0, s.result1)

/-! Well-formedness: each check refuses an ill-formed command (30_encoding.md R184). -/

theorem test_wf_maxlen : (Instr.hufLengths 16).wellFormed = false := by decide
theorem test_wf_index : (Instr.hufPeek 0 false 65536).wellFormed = false := by decide
theorem test_wf_probes : (Instr.lzFind false false 65536).wellFormed = false := by decide
theorem test_wf_level : (Instr.encInit 256 false false false false false).wellFormed = false := by decide
theorem test_wf_flush : (Instr.encRun 8).wellFormed = false := by decide
theorem test_wf_omode : (Instr.decInit false 4 false).wellFormed = false := by decide
theorem test_wf_align : (Instr.zipLhWrite 65536).wellFormed = false := by decide
theorem test_wf_good :
    (Instr.hufLengths 15).wellFormed = true ∧ (Instr.encInit 255 true true true true true).wellFormed = true := by decide

/-! Decoding: one word for each command, written from 30_encoding.md R180 (IMM, MOD, OPC) and R184. -/

theorem test_decode_nop : decode (0x0000#16 ++ 0x00#8 ++ 0x00#8) = .ok .nop := by decide
theorem test_decode_reset : decode (0x0000#16 ++ 0x00#8 ++ 0x01#8) = .ok .reset := by decide
theorem test_decode_crcInit : decode (0x0000#16 ++ 0x00#8 ++ 0x10#8) = .ok .crcInit := by decide
theorem test_decode_crcUpdate : decode (0x0000#16 ++ 0x00#8 ++ 0x11#8) = .ok .crcUpdate := by decide
theorem test_decode_crcByte : decode (0x0000#16 ++ 0b10100101#8 ++ 0x12#8) = .ok (.crcByte 0xA5#8) := by decide
theorem test_decode_adlerInit : decode (0x0000#16 ++ 0x00#8 ++ 0x14#8) = .ok .adlerInit := by decide
theorem test_decode_adlerUpdate : decode (0x0000#16 ++ 0x00#8 ++ 0x15#8) = .ok .adlerUpdate := by decide
theorem test_decode_adlerByte : decode (0x0000#16 ++ 0b11000011#8 ++ 0x16#8) = .ok (.adlerByte 0xC3#8) := by decide
theorem test_decode_hufLengths : decode (0b0000000000001101#16 ++ 0x00#8 ++ 0x20#8) = .ok (.hufLengths 13) := by decide
theorem test_decode_hufCodes : decode (0x0000#16 ++ 0b00000001#8 ++ 0x21#8) = .ok (.hufCodes true) := by decide
theorem test_decode_hufDtable : decode (0x0000#16 ++ 0b00000010#8 ++ 0x22#8) = .ok (.hufDtable 2) := by decide
theorem test_decode_hufDecode : decode (0x0000#16 ++ 0b00000011#8 ++ 0x23#8) = .ok (.hufDecode 3) := by decide
theorem test_decode_hufPeek : decode (0x0203#16 ++ 0b00000101#8 ++ 0x24#8) = .ok (.hufPeek 1 true 0x203) := by decide
theorem test_decode_lzFind : decode (0x1234#16 ++ 0b00000010#8 ++ 0x30#8) = .ok (.lzFind false true 0x1234) := by decide
theorem test_decode_lzHash : decode (0x0000#16 ++ 0b00000001#8 ++ 0x31#8) = .ok (.lzHash true) := by decide
theorem test_decode_encInit :
    decode (0b0000000000010110#16 ++ 0x0A#8 ++ 0x40#8) = .ok (.encInit 10 false true true false true) := by decide
theorem test_decode_encRun : decode (0x0000#16 ++ 0b00000100#8 ++ 0x41#8) = .ok (.encRun 4) := by decide
theorem test_decode_decInit : decode (0x0000#16 ++ 0b00001101#8 ++ 0x50#8) = .ok (.decInit true 2 true) := by decide
theorem test_decode_decRun : decode (0x0000#16 ++ 0x00#8 ++ 0x51#8) = .ok .decRun := by decide
theorem test_decode_zipNameCheck : decode (0x0000#16 ++ 0x00#8 ++ 0x60#8) = .ok .zipNameCheck := by decide
theorem test_decode_zipLhWrite : decode (0x8001#16 ++ 0x00#8 ++ 0x61#8) = .ok (.zipLhWrite 0x8001) := by decide
theorem test_decode_zipCdWrite : decode (0x0000#16 ++ 0x00#8 ++ 0x62#8) = .ok .zipCdWrite := by decide
theorem test_decode_zipEocdWrite : decode (0x0000#16 ++ 0x00#8 ++ 0x63#8) = .ok .zipEocdWrite := by decide
theorem test_decode_zipEocdFind : decode (0x0000#16 ++ 0x00#8 ++ 0x64#8) = .ok .zipEocdFind := by decide
theorem test_decode_zipCdParse : decode (0x0000#16 ++ 0x00#8 ++ 0x65#8) = .ok .zipCdParse := by decide
theorem test_decode_zipLhCheck : decode (0x0000#16 ++ 0x00#8 ++ 0x66#8) = .ok .zipLhCheck := by decide
theorem test_decode_zipNameCmp : decode (0x0000#16 ++ 0b00000001#8 ++ 0x67#8) = .ok (.zipNameCmp true) := by decide
theorem test_decode_zipVerify : decode (0x0000#16 ++ 0x00#8 ++ 0x68#8) = .ok .zipVerify := by decide
theorem test_decode_reserved_opcode : decode 0x00000013#32 = .error .unknownOpc := by decide
theorem test_decode_reserved_bits : decode 0x00000841#32 = .error .reservedBits := by decide

/-! Steps. The expected results are those of the examples in the rules named. -/

-- 30_encoding.md R186; 40_control.md R210
theorem test_step_nop :
    stepped (State.reset.withFetchWord 32 0x00000000) (fun t => t.status.word) = some 0x00000200#32 := by decide +kernel
theorem test_step_illegal :
    stepped (State.reset.withFetchWord 32 0x00000802) record = some (0x10#8, 1#8, 0x802#32, 0#32, 0#32) := by decide +kernel
-- 70_reset_and_hazards.md R612
theorem test_reset : after .reset (demo 7 8 9 10 []) (fun t => (t.status.word, t.args.a0)) = some (0x00010200#32, 0#32) := by
  decide +kernel
-- 41_checksums.md R228 to R234
theorem test_crcInit : after .crcInit { State.reset with crcAcc := 0x12345678#32 } (·.crcAcc) = some 0#32 := by decide +kernel
theorem test_crcUpdate :
    after .crcUpdate (demo 0x1000 9 0 0 [(0x1000, ascii "123456789")]) (fun t => (t.crcAcc, t.result0, t.result1))
      = some (0xCBF43926#32, 0xCBF43926#32, 9#32) := by decide +kernel
theorem test_crcUpdate_nullBuf : after .crcUpdate (demo 0 1 0 0 []) record = some (0x11#8, 14#8, 0#32, 0#32, 0#32) := by
  decide +kernel
theorem test_crcByte : after (.crcByte 0x61#8) State.reset (·.crcAcc) = some 0xE8B7BE43#32 := by decide +kernel
theorem test_adlerInit : after .adlerInit { State.reset with adlerAcc := 7#32 } (·.adlerAcc) = some 1#32 := by decide +kernel
theorem test_adlerUpdate :
    after .adlerUpdate (demo 0x1000 9 0 0 [(0x1000, ascii "Wikipedia")]) (·.adlerAcc) = some 0x11E60398#32 := by decide +kernel
theorem test_adlerByte : after (.adlerByte 0x61#8) State.reset (·.adlerAcc) = some 0x00620062#32 := by decide +kernel
theorem test_adlerByte_reduces :
    after (.adlerByte 0x00#8) { State.reset with adlerAcc := 0xFFFFFFFF#32 } (·.adlerAcc) = some 0x001C000E#32 := by
  decide +kernel
-- 42_huffman.md R252, R261, R272, R290
theorem test_hufLengths :
    after (.hufLengths 15) (demo 0x1000 4 0x2000 0 [(0x1000, [3#8, 0#8, 1#8, 0#8, 0#8, 0#8, 2#8])])
      (fun t => (bytesAt t 0x2000 4, t.result0, t.result1)) = some ([1#8, 2#8, 0#8, 2#8], 3#32, 2#32) := by decide +kernel
/-- The lengths of RFC 1951's example, which 42_huffman.md uses in its own. -/
def eight : List Byte := [3#8, 3#8, 3#8, 3#8, 3#8, 2#8, 4#8, 4#8]
theorem test_hufCodes :
    after (.hufCodes false) (demo 0x1000 8 0x2000 0 [(0x1000, eight)])
      (fun t => ((List.range 8).map (fun k => half t (0x2000 + 2 * k)), t.result1))
      = some ([2, 3, 4, 5, 6, 0, 14, 15], 0x8000#32) := by decide +kernel
theorem test_hufDtable :
    after (.hufDtable 3) (demo 0x1000 32 0 0 [(0x1000, List.replicate 32 5#8)]) (fun t => (t.result0, t.result1))
      = some (32#32, 0#32) := by decide +kernel
theorem test_hufPeek :
    then2 (.hufDtable 1) (.hufPeek 1 false 7) (demo 0x1000 8 0 0 [(0x1000, eight)]) (fun t => (t.result0, t.result1))
      = some (0x4806#32, 8#32) := by decide +kernel
/-- A slot of those lengths. -/
def eightSlot : State := { demo 0 2 0 0 [] with slots := Slots.reset.set 1 (tableOf (eight.map BitVec.toNat)) }
theorem test_hufDecode : after (.hufDecode 1) eightSlot record = some (0x00#8, 0#8, 0#32, 5#32, 2#32) := by decide +kernel
theorem test_hufDecode_needs :
    after (.hufDecode 1) { eightSlot with args := { eightSlot.args with a1 := 1 } } (·.status.code) = some 0x02#8 := by
  decide +kernel
-- 43_lz77.md R302, R308, R313
theorem test_lzFind :
    after (.lzFind true false 16) (demo 0x1000 12 3 258 [(0x1000, ascii "abcabcabcabc")]) (fun t => (t.result0, t.result1))
      = some (9#32, 3#32) := by decide +kernel
theorem test_lzFind_collision :
    after (.lzFind true false 2)
      (demo 0x1000 11 8 258 [(0x1000, [0#8, 0x20#8, 0#8, 0x51#8, 1#8, 0#8, 0#8, 0x52#8, 0#8, 0x20#8, 0#8])])
      (fun t => (t.result0, t.result1)) = some (3#32, 8#32) := by decide +kernel
theorem test_lzHash : after (.lzHash false) (demo 0x00636261 0 0 0 []) (·.result0) = some 0x0823#32 := by decide +kernel
theorem test_lzHash_fast : after (.lzHash true) (demo 0x00FFFFFF 0 0 0 []) (·.result0) = some 0x031F#32 := by decide +kernel
-- 45_encoder.md R380, R390, R423
theorem test_encInit :
    after (.encInit 6 true false false false false) State.reset (fun t => (t.regRead 0x048, t.regRead 0x058))
      = some (0x00800161#32, 2#32) := by decide +kernel
theorem test_encRun :
    then2 (.encInit 6 true false false false false) (.encRun 4) (demo 0x1000 5 0x2000 64 [(0x1000, ascii "hello")])
      (fun t => (t.status.code, t.result0, bytesAt t 0x2000 16))
      = some (0x01#8, 5#32, [0x78#8, 0x01#8, 0x01#8, 0x05#8, 0x00#8, 0xFA#8, 0xFF#8, 0x68#8, 0x65#8, 0x6C#8, 0x6C#8, 0x6F#8
        , 0x06#8, 0x2C#8, 0x02#8, 0x15#8]) := by decide +kernel
theorem test_encRun_match :
    then2 (.encInit 1 false false false false false) (.encRun 4) (demo 0x1000 12 0x2000 64 [(0x1000, ascii "abcabcabcabc")])
      (fun t => (t.result1, bytesAt t 0x2000 6)) = some (6#32, [0x4B#8, 0x4C#8, 0x4A#8, 0x86#8, 0x23#8, 0x00#8]) := by
  decide +kernel
-- 46_decoder.md R440, R445, R490
theorem test_decInit :
    after (.decInit true 0 false) State.reset (fun t => (t.regRead 0x060, t.regRead 0x078))
      = some (0x00000101#32, 0x00008000#32) := by decide +kernel
theorem test_decRun :
    then2 (.decInit false 0 false) .decRun
      (demo 0x1000 9 0x2000 64 [(0x1000, [0xCB#8, 0x48#8, 0xCD#8, 0xC9#8, 0xC9#8, 0x57#8, 0xC0#8, 0x20#8, 0x01#8])])
      (fun t => (t.status.code, t.result0, bytesAt t 0x2000 23)) = some (0x01#8, 9#32, ascii "hello hello hello hello") := by
  decide +kernel
theorem test_decRun_badBtype :
    then2 (.decInit false 0 false) .decRun (demo 0x1000 1 0x2000 64 [(0x1000, [0x07#8])]) record
      = some (0x21#8, 2#8, 1#32, 1#32, 0#32) := by decide +kernel
-- 47_zip_records.md R512 to R550
theorem test_zipNameCheck :
    after .zipNameCheck (demo 0x1000 5 0 0 [(0x1000, [0x61#8, 0x5C#8, 0x62#8, 0x3A#8, 0x63#8])]) record
      = some (0x33#8, 2#8, 1#32, 0#32, 0#32) := by decide +kernel
/-- The entry of the example of 47_zip_records.md R514. -/
def helloEntry : ZipEntry :=
  { ZipEntry.reset with
    verMade := 20, verNeed := 20, date := 0x0021, crc := 0x3610A686, csize := 5, usize := 5, nameLen := 5 }
theorem test_zipLhWrite :
    after (.zipLhWrite 4) { demo 0x2000 0x1000 0 0x41 [(0x1000, ascii "a.txt")] with zf := helloEntry }
      (fun t => (t.result0, t.result1, t.zf.lhOfs, bytesAt t 0x2000 8))
      = some (3#32, 38#32, 0x44#32, [0#8, 0#8, 0#8, 0x50#8, 0x4B#8, 0x03#8, 0x04#8, 0x14#8]) := by decide +kernel
/-- The central-directory record of the example of 47_zip_records.md R518. -/
def helloRecord : List Byte :=
  [0x50#8, 0x4B#8, 0x01#8, 0x02#8, 0x14#8, 0x00#8, 0x14#8, 0x00#8, 0x00#8, 0x00#8, 0x00#8, 0x00#8, 0x00#8, 0x00#8, 0x21#8
  , 0x00#8, 0x86#8, 0xA6#8, 0x10#8, 0x36#8, 0x05#8, 0x00#8, 0x00#8, 0x00#8, 0x05#8, 0x00#8, 0x00#8, 0x00#8, 0x05#8]
  ++ List.replicate 17 0x00#8 ++ ascii "a.txt"
theorem test_zipCdWrite :
    after .zipCdWrite { demo 0x2000 0x1000 0 0 [(0x1000, ascii "a.txt")] with zf := helloEntry }
      (fun t => (t.result1, bytesAt t 0x2000 51)) = some (51#32, helloRecord) := by decide +kernel
theorem test_zipEocdWrite :
    after .zipEocdWrite { demo 0x2000 0 0 0 [] with ze := { ZipEnd.reset with nent := 1, cdSize := 51, cdOfs := 40 } }
      (fun t => (t.result1, bytesAt t 0x2000 22))
      = some (22#32, [0x50#8, 0x4B#8, 0x05#8, 0x06#8, 0#8, 0#8, 0#8, 0#8, 1#8, 0#8, 1#8, 0#8, 0x33#8, 0#8, 0#8, 0#8, 0x28#8
        , 0#8, 0#8, 0#8, 0#8, 0#8]) := by decide +kernel
/-- The end record of the 113-byte archive of 95_test_vectors.md section 8. -/
def helloEnd : List Byte :=
  [0x50#8, 0x4B#8, 0x05#8, 0x06#8, 0#8, 0#8, 0#8, 0#8, 1#8, 0#8, 1#8, 0#8, 0x33#8, 0#8, 0#8, 0#8, 0x28#8]
theorem test_zipEocdFind :
    after .zipEocdFind (demo 0x1000 30 113 0 [(0x1008, helloEnd)])
      (fun t => (t.result0, t.result1, t.ze.cdSize, t.ze.cdOfs, t.ze.ofs)) = some (91#32, 1#32, 51#32, 40#32, 91#32) := by
  decide +kernel
theorem test_zipCdParse :
    after .zipCdParse (demo 0x1000 51 113 0 [(0x1000, helloRecord)]) (fun t => (t.result0, t.result1, t.zf.crc, t.zf.nameLen))
      = some (51#32, 0x102E#32, 0x3610A686#32, 5#16) := by decide +kernel
theorem test_zipCdParse_outOfRange :
    after .zipCdParse (demo 0x1000 51 30 0 [(0x1000, helloRecord)]) record = some (0x30#8, 3#8, 0x1000#32, 0#32, 0#32) := by
  decide +kernel
/-- The local header of the example of 47_zip_records.md R514 without padding. -/
def helloHeader : List Byte :=
  [0x50#8, 0x4B#8, 0x03#8, 0x04#8, 0x14#8, 0#8, 0#8, 0#8, 0#8, 0#8, 0#8, 0#8, 0x21#8, 0#8, 0x86#8, 0xA6#8, 0x10#8, 0x36#8
  , 5#8, 0#8, 0#8, 0#8, 5#8, 0#8, 0#8, 0#8, 5#8, 0#8, 0#8, 0#8] ++ ascii "a.txt"
/-- A state for ZIP_LH_CHECK of that header. -/
def helloChecked : State :=
  { demo 0x1000 40 113 0x2000 [(0x1000, helloHeader), (0x2000, ascii "a.txt")] with zf := helloEntry }
theorem test_zipLhCheck : after .zipLhCheck helloChecked (fun t => (t.result0, t.result1)) = some (35#32, 35#32) := by
  decide +kernel
theorem test_zipNameCmp :
    after (.zipNameCmp true) (demo 0x1000 5 0x2000 5 [(0x1000, ascii "A.TXT"), (0x2000, ascii "a.txt")])
      (fun t => (t.result0, t.result1)) = some (1#32, 0xFFFFFFFF#32) := by decide +kernel
theorem test_zipNameCmp_folds :
    after (.zipNameCmp false) (demo 0x1000 5 0x2000 5 [(0x1000, ascii "A.TXT"), (0x2000, ascii "a.txt")])
      (fun t => (t.result0, t.result1)) = some (0#32, 0#32) := by decide +kernel
theorem test_zipVerify :
    after .zipVerify { demo 5 0 0 0 [] with zf := helloEntry, crcAcc := 0x3610A687 } record
      = some (0x23#8, 1#8, 0x3610A687#32, 0#32, 0#32) := by decide +kernel

/-! Witnesses: for each statement with hypotheses, states and operands that meet them together, each clause at a boundary. -/

/-- With no hole in the platform's memory, a range within the space and off address 0 can be read. -/
theorem readable_of_noHoles {s : State} {a n : Nat} (hp : s.plat.holes = []) (h0 : 0 < n → a ≠ 0) (h : a + n ≤ 2 ^ 32) :
    Readable s a n :=
  ⟨h0, h, fun k hk => by simp only [State.memOk, hp, List.any_nil, Bool.not_false, Bool.and_true, decide_eq_true_eq]; omega⟩

/-- With no hole in the platform's memory, a range within the space and off address 0 can be written. -/
theorem writable_of_noHoles {s : State} {a n : Nat} (hp : s.plat.holes = []) (h0 : 0 < n → a ≠ 0) (h : a + n ≤ 2 ^ 32) :
    Writable s a n :=
  ⟨h0, h, fun k hk => by simp only [State.memOk, hp, List.any_nil, Bool.not_false, Bool.and_true, decide_eq_true_eq]; omega⟩

/-- The state after a launch, with nothing else pending. -/
def launched (w : Word) : State := State.reset.launchNow w

theorem launched_inv : Inv (launched 0x00000000#32) := by constructor <;> decide +kernel

theorem witness_DecodeOfEncodeIsTheCommand :
    (Instr.encInit 255 true true true true true).wellFormed = true ∧ (Instr.hufPeek 3 true 65535).wellFormed = true := by
  decide

theorem witness_EncodeOfDecodeIsTheWord : ∃ (w : Word) (i : Instr), decode w = .ok i := ⟨0xFFFF0724#32, .hufPeek 3 true 65535, by decide⟩

theorem witness_ReservedOpcodeCompletesIllegal :
    (∃ s : State, blockNext s ∧ s.status.busy = true ∧ reservedOpcode (s.cmd.toNat % 256)) ∧
      ∀ n ∈ [0x02, 0x0F, 0x13, 0x17, 0x1F, 0x25, 0x2F, 0x32, 0x3F, 0x42, 0x4F, 0x52, 0x5F, 0x69, 0xFF], reservedOpcode n :=
  ⟨⟨launched 0x000000FF#32, .inl rfl, rfl, by unfold reservedOpcode; decide⟩, by unfold reservedOpcode; decide⟩

theorem witness_ReservedBitsCompleteIllegal :
    ∃ (s : State) (row : Nat × Word), blockNext s ∧ s.status.busy = true ∧ row ∈ rows ∧ s.cmd.toNat % 256 = row.1 ∧
      s.cmd &&& row.2 ≠ BitVec.ofNat 32 row.1 :=
  ⟨launched 0x80000068#32, (0x68, 0xFFFFFFFF#32), .inl rfl, rfl, by decide, by decide, by decide⟩

theorem witness_StepPerformsTheDecodedCommand :
    (∃ (s : State) (i : Instr), blockNext s ∧ s.status.busy = true ∧ decode s.cmd = .ok i) ∧
      (∃ (s : State) (i : Instr), s.hostq ≠ [] ∧ blockNext s ∧ s.status.busy = true ∧ decode s.cmd = .ok i) ∧
      ∃ s : State, blockNext s ∧ s.status.busy = false :=
  ⟨⟨launched 0x00000001#32, .reset, .inl rfl, rfl, by decide⟩
  , ⟨{ launched 0x00000441#32 with hostq := [.block] }, .encRun 4, by decide, .inr rfl, rfl, by decide⟩
  , ⟨State.reset, .inl rfl, rfl⟩⟩

theorem witness_WriteToCmdLaunches :
    (∃ (s : State) (addr size : Nat) (v : Word) (rest : List HostEvent), s.hostq = .write addr size v :: rest ∧
      atRegister s addr size 0x004 ∧ s.status.busy = false) ∧
    ∃ (s : State) (addr size : Nat) (v : Word) (rest : List HostEvent), s.hostq = .write addr size v :: rest ∧
      atRegister s addr size 0x004 ∧ s.status.busy = true :=
  ⟨⟨{ State.reset with hostq := [.write 4 4 1#32] }, 4, 4, 1#32, [], rfl, by unfold atRegister; decide, rfl⟩
  , ⟨{ launched 0x00000000#32 with hostq := [.write 4 4 1#32] }, 4, 4, 1#32, [], rfl, by unfold atRegister; decide, rfl⟩⟩

theorem witness_WritesWhileBusyOnlySetOverrun :
    (∃ (s : State) (addr size off : Nat) (rest : List HostEvent) (v : Word), s.status.busy = true ∧
      atRegister s addr size off ∧ s.hostq = .write addr size v :: rest) ∧
    ∃ (s : State) (addr size off : Nat) (rest : List HostEvent), s.status.busy = true ∧ atRegister s addr size off ∧
      s.hostq = .read addr size :: rest :=
  ⟨⟨{ launched 0x00000000#32 with hostq := [.write 0xFC 4 1#32] }, 0xFC, 4, 0xFC, [], 1#32, rfl, by unfold atRegister; decide
    , rfl⟩
  , ⟨{ launched 0x00000000#32 with hostq := [.read 0 4] }, 0, 4, 0, [], rfl, by unfold atRegister; decide, rfl⟩⟩

theorem witness_WritableRegistersReadBack :
    ∀ off, off = 0x0DC ∧ off ∈ fullRegisters ∨ off = 0x0D8 ∧ off ∈ halfRegisters ∨ off = 0x00C →
      ∃ (s : State) (addr size : Nat) (v : Word) (rest : List HostEvent), s.status.busy = false ∧
        atRegister s addr size off ∧ s.hostq = .write addr size v :: rest := by
  intro off h
  refine ⟨{ State.reset with hostq := [.write off 4 0xFFFFFFFF#32] }, off, 4, 0xFFFFFFFF#32, [], rfl, ?_, rfl⟩
  unfold atRegister
  rcases h with ⟨rfl, -⟩ | ⟨rfl, -⟩ | rfl <;> decide

theorem witness_RegistersDoNotAlias : ∃ x y : Nat, x ≠ 0x004 ∧ x ≠ 0x008 ∧ x ≠ y := ⟨0x020, 0x024, by decide⟩

theorem witness_UndecodedAccessesDoNothing :
    0x0FC ∈ readOnlyRegisters ∧ (∃ off : Nat, off = 0x05C ∨ 0x0E0 ≤ off) ∧
      ∃ (s : State) (addr size : Nat), ∀ off, ¬ atRegister s addr size off :=
  ⟨by decide, ⟨0x0E0, .inr (le_refl _)⟩, ⟨State.reset, 4, 2, fun off h => by simp [atRegister] at h⟩⟩

theorem witness_InterruptFollowsCompletion :
    ∃ s t : State, blockNext s ∧ s.status.busy = true ∧ step s = .next t :=
  ⟨launched 0x00000000#32, _, .inl rfl, rfl, rfl⟩

theorem witness_ResetInputGivesResetValues :
    ∃ (s : State) (rest : List HostEvent), s.hostq = .rst :: rest ∧ s.status.busy = true :=
  ⟨{ launched 0x00000441#32 with hostq := [.rst] }, [], rfl, rfl⟩

theorem witness_EveryCommandCompletes : ∃ s : State, Inv s ∧ blockNext s ∧ s.status.busy = true :=
  ⟨launched 0x00000000#32, launched_inv, .inl rfl, rfl⟩

theorem witness_CommandsWriteOnlyTheirOwnState :
    ∃ (i : Instr) (s t : State), exec i s = .next t ∧ ¬ isReset i ∧ ¬ storesToMemory i ∧ ¬ writesCrc i ∧ ¬ writesAdler i ∧
      ¬ writesSlots i ∧ ¬ writesEntry i ∧ ¬ writesEnd i ∧ family i ≠ 4 ∧ family i ≠ 5 :=
  ⟨.zipVerify, State.reset, _, rfl, by simp [isReset], by simp [storesToMemory], by simp [writesCrc], by simp [writesAdler], by simp [writesSlots]
    , by simp [writesEntry], by simp [writesEnd], by decide, by decide⟩

theorem witness_StepKeepsTheInvariant : ∃ s t : State, Inv s ∧ step s = .next t :=
  ⟨launched 0x00000000#32, _, launched_inv, rfl⟩

theorem witness_ChecksumBufferUpdates : ∃ s : State, Readable s s.args.a0.toNat s.args.a1.toNat ∧ 0 < s.args.a1.toNat :=
  ⟨demo 0x1000 9 0 0 [], readable_of_noHoles rfl (by decide) (by decide), by decide⟩

theorem witness_ChecksumBufferUpdates_top : ∃ s : State, Readable s s.args.a0.toNat s.args.a1.toNat ∧
    s.args.a0.toNat + s.args.a1.toNat = 2 ^ 32 :=
  ⟨demo 0xFFFFFFFF 1 0 0 [], readable_of_noHoles rfl (by decide) (by decide), by decide⟩

theorem witness_ChecksumUpdateErrors :
    (∃ s : State, 0 < s.args.a1.toNat ∧ s.args.a0 = 0#32) ∧
    (∃ s : State, s.args.a0 ≠ 0#32 ∧ 2 ^ 32 < s.args.a0.toNat + s.args.a1.toNat) ∧
    ∃ (s : State) (k : Nat), s.args.a0 ≠ 0#32 ∧ s.args.a0.toNat + s.args.a1.toNat ≤ 2 ^ 32 ∧ k < s.args.a1.toNat ∧
      Readable s s.args.a0.toNat k ∧ s.memOk (s.args.a0.toNat + k) .read = false :=
  ⟨⟨demo 0 1 0 0 [], by decide, rfl⟩, ⟨demo 0xFFFFFFFF 2 0 0 [], by decide, by decide⟩
  , ⟨{ demo 0x1000 4 0 0 [] with plat := { mmioBase := 0, holes := [{ base := 0x1003, size := 1, noRead := true, noWrite := false }] } }
    , 3, by decide, by decide, by decide, ⟨by decide, by decide, by decide⟩, by decide⟩⟩

/-- Three frequencies at 0x1000 and the operands of HUF_LENGTHS. -/
def threeFreqs : State := demo 0x1000 3 0x2000 0 [(0x1000, [1#8, 0#8, 2#8, 0#8, 3#8, 0#8])]

theorem witness_HufLengthsWritesLengths :
    ∃ (s : State) (freq : List Nat), s.mem.wf = true ∧ s.args.a1.toNat ≤ 288 ∧
      Readable s s.args.a0.toNat (2 * s.args.a1.toNat) ∧ Writable s s.args.a2.toNat s.args.a1.toNat ∧
      Apart s.args.a0.toNat (2 * s.args.a1.toNat) s.args.a2.toNat s.args.a1.toNat ∧
      freq = (List.range s.args.a1.toNat).map (fun k => half s (s.args.a0.toNat + 2 * k)) ∧
      2 ^ 1 < freq.countP (fun x => 0 < x) ∧ freq.countP (fun x => 0 < x) ≤ 2 ^ 2 :=
  ⟨threeFreqs, [1, 2, 3], by decide +kernel, by decide, readable_of_noHoles rfl (by decide) (by decide)
  , writable_of_noHoles rfl (by decide) (by decide), by unfold Apart; decide, by decide +kernel, by decide, by decide⟩

theorem witness_BuiltLengthsKeepTheLimit :
    (∃ (freq : List Nat) (maxlen j k : Nat), 1 ≤ maxlen ∧ freq[j]? = some 0 ∧ freq.countP (fun x => 0 < x) = 1 ∧
      0 < freq.getD k 0) ∧
    ∃ (freq : List Nat) (maxlen : Nat), 1 ≤ maxlen ∧ maxlen ≤ 15 ∧ 2 ≤ freq.countP (fun x => 0 < x) ∧
      freq.countP (fun x => 0 < x) = 2 ^ maxlen :=
  ⟨⟨[0, 5], 1, 0, 1, by decide⟩, [7, 0, 1], 1, by decide⟩

/-- The frequencies 1, 1, 2, 4, 8 ask for a code of 4 bits; a limit of 3 still fills the code space (42_huffman.md R257). -/
theorem test_limited_lengths_fill_the_code_space : scaledKraft (buildLengths [1, 1, 2, 4, 8] 3) = 2 ^ 15 := by decide +kernel

theorem witness_ChecksumFormsAgree : ∃ bs : List Byte, bs ≠ [] ∧ byteSum bs = 294 ∧ weightedSum bs = 97 + 195 + 294 :=
  ⟨ascii "abc", by decide +kernel⟩

/-- Code lengths at 0x1000 and the operands of HUF_CODES and HUF_DTABLE. -/
def lengthsState (len : List Byte) : State := demo 0x1000 (BitVec.ofNat 32 len.length) 0x2000 0 [(0x1000, len)]

theorem witness_HufCodesWritesCodes :
    ∀ len ∈ [[16#8], [1#8, 1#8, 15#8], [1#8, 1#8]], ∃ s : State, s.mem.wf = true ∧ s.args.a1.toNat ≤ 288 ∧
      Readable s s.args.a0.toNat s.args.a1.toNat ∧ Writable s s.args.a2.toNat (2 * s.args.a1.toNat) ∧
      Apart s.args.a0.toNat s.args.a1.toNat s.args.a2.toNat (2 * s.args.a1.toNat) ∧
      len = bytesAt s s.args.a0.toNat s.args.a1.toNat := by
  have h : ∀ len ∈ [[16#8], [1#8, 1#8, 15#8], [1#8, 1#8]],
      (lengthsState len).mem.wf = true ∧ 0 < len.length ∧ len.length ≤ 288 ∧ (lengthsState len).args.a1.toNat = len.length ∧
        len = bytesAt (lengthsState len) 0x1000 len.length := by decide +kernel
  intro len hl
  obtain ⟨h1, h2, h3, h4, h5⟩ := h len hl
  have a0 : (lengthsState len).args.a0.toNat = 0x1000 := rfl
  have a2 : (lengthsState len).args.a2.toNat = 0x2000 := rfl
  exact ⟨lengthsState len, h1, by omega, readable_of_noHoles rfl (by omega) (by omega),
    writable_of_noHoles rfl (by omega) (by omega), by unfold Apart; omega, by rw [a0, h4]; exact h5⟩

theorem witness_HufCodesWritesCodes_cases :
    (15 < ([16] : List Nat).getD 0 0) ∧
    ((∀ l ∈ [1, 1, 15], l ≤ 15) ∧ 2 ^ 15 < (([1, 1, 15] : List Nat).map (fun l => if l = 0 then 0 else 2 ^ (15 - l))).sum) ∧
    (∀ l ∈ [1, 1], l ≤ 15) ∧ (([1, 1] : List Nat).map (fun l => if l = 0 then 0 else 2 ^ (15 - l))).sum ≤ 2 ^ 15 := by decide

theorem witness_CanonicalCodesArePrefixFree :
    ∃ (len : List Nat) (i j li lj ri rj : Nat), ValidLengths len ∧ IsCode len i li ri ∧ IsCode len j lj rj ∧ i ≠ j ∧ li ≤ lj :=
  ⟨[1, 15, 15], 0, 2, 1, 15, 0, 0x4001, by unfold ValidLengths; decide, by unfold IsCode; decide, by unfold IsCode; decide
  , by decide, by decide⟩

theorem witness_HufDtableBuildsOrEmptiesTheSlot :
    (∃ s : State, openStream s.dec) ∧
    (∃ (s : State) (k : Fin 4), k.val ≤ 2 ∧ ¬ openStream s.dec ∧ s.args.a1.toNat ≤ 288 ∧
      Readable s s.args.a0.toNat s.args.a1.toNat) ∧
    (15 < ([3, 16] : List Nat).getD 1 0 ∧ ∀ j < 1, ([3, 16] : List Nat).getD j 0 ≤ 15) ∧
    ((∀ l ∈ [1, 1, 15], l ≤ 15) ∧ 2 ≤ usedCount [1, 1, 15] ∧ 2 ^ 15 < kraft [1, 1, 15]) ∧
    ((∀ l ∈ [1, 2], l ≤ 15) ∧ 2 ≤ usedCount [1, 2] ∧ kraft [1, 2] < 2 ^ 15) ∧
    ((∀ l ∈ [1, 1], l ≤ 15) ∧ 2 ≤ usedCount [1, 1] ∧ kraft [1, 1] = 2 ^ 15) ∧ usedCount [0, 7] = 1 :=
  ⟨⟨{ State.reset with dec := { Dec.reset with phase := .ztrailer } }, by unfold openStream; decide⟩
  , ⟨demo 0x1000 288 0 0 [], 2, by decide, by unfold openStream; decide, by decide
    , readable_of_noHoles rfl (by decide) (by decide)⟩
  , by decide, by decide, by decide, by decide, by decide⟩

theorem witness_HufDecodeFollowsTheCodes :
    (∃ s : State, 32 < s.args.a1.toNat) ∧
    ∃ len : List Nat, ValidLengths len ∧ IsCode len 0 2 0 ∧ (0 % 2 ^ 2 = 0 ∧ 2 ≤ 32) ∧
      ((¬ ∃ i l r, IsCode len i l r ∧ l ≤ 1 ∧ 1 % 2 ^ l = r) ∧ ∃ i l r, IsCode len i l r ∧ 1 < l ∧ r % 2 ^ 1 = 1 % 2 ^ 1) ∧
      ((¬ ∃ i l r, IsCode len i l r ∧ l ≤ 2 ∧ 3 % 2 ^ l = r) ∧ ¬ ∃ i l r, IsCode len i l r ∧ 2 < l ∧ r % 2 ^ 2 = 3 % 2 ^ 2) := by
  refine ⟨⟨demo 0 33 0 0 [], by decide⟩, [2, 2, 2], by unfold ValidLengths; decide, by unfold IsCode; decide, by decide, ?_, ?_⟩
  · refine ⟨?_, 2, 2, 1, ?_⟩
    · rintro ⟨i, l, r, ⟨h1, h2, h3⟩, h4, h5⟩
      have hi : i < 3 := by simpa using (List.getElem?_eq_some_iff.mp h1).1
      interval_cases i <;> simp at h1 <;> omega
    · unfold IsCode; decide
  · constructor
    · rintro ⟨i, l, r, ⟨h1, h2, h3⟩, h4, h5⟩
      have hi : i < 3 := by simpa using (List.getElem?_eq_some_iff.mp h1).1
      interval_cases i <;> simp at h1 <;> subst h1 <;> rw [h3] at h5 <;> revert h5 <;> decide
    · rintro ⟨i, l, r, ⟨h1, h2, h3⟩, h4, h5⟩
      have hi : i < 3 := by simpa using (List.getElem?_eq_some_iff.mp h1).1
      interval_cases i <;> simp at h1 <;> omega

theorem witness_HufPeekReadsTheEntry :
    1023 ≤ (if false then 575 else 1023) ∧ 575 ≤ (if true then 575 else 1023) ∧ (if false then 575 else 1023) < 1024 ∧
      (if true then 575 else 1023) < 576 := by decide

theorem witness_LzFindSearchesTheBuffer :
    (∃ s : State, 258 < s.args.a3.toNat) ∧
    (∃ s : State, s.args.a3.toNat ≤ 258 ∧ Readable s s.args.a0.toNat s.args.a1.toNat ∧ s.args.a1.toNat ≤ s.args.a2.toNat) ∧
    ∃ s : State, s.args.a3.toNat ≤ 258 ∧ Readable s s.args.a0.toNat s.args.a1.toNat ∧ s.args.a2.toNat < s.args.a1.toNat :=
  ⟨⟨demo 0 0 0 259 [], by decide⟩
  , ⟨demo 0x1000 12 12 258 [], by decide, readable_of_noHoles rfl (by decide) (by decide), by decide⟩
  , ⟨demo 0x1000 12 11 258 [], by decide, readable_of_noHoles rfl (by decide) (by decide), by decide⟩⟩

theorem witness_AcceptedMatchesAreMatches :
    ∃ (S : List Byte) (base p maxlen probes : Nat) (r : Match), p + maxlen ≤ S.length ∧ maxlen ≤ 258 ∧
      r = accept (find S base p maxlen probes) true false ∧ r ≠ Match.none :=
  ⟨ascii "abcabc", 0, 3, 3, 1, { len := 3, dist := 3 }, by decide +kernel⟩

theorem witness_MoreProbesFindNoShorterMatch :
    (∃ few many : Nat, few ≤ many) ∧ (∃ maxlen probes : Nat, maxlen < 3 ∨ probes = 0) ∧
    ∃ (S : List Byte) (base p maxlen probes q n : Nat), 3 ≤ maxlen ∧ p + maxlen ≤ S.length ∧ Probed S base p probes q ∧
      n ≤ maxlen ∧ Agree S q p n ∧ n = (find S base p maxlen probes).len ∧ 0 < n ∧
      find S base p maxlen probes ≠ { len := 0, dist := 0 } :=
  ⟨⟨0, 65535, by decide⟩, ⟨2, 0, by decide⟩, ascii "abcabcabc", 0, 6, 3, 2, 0, 3, by decide, by decide
  , by unfold Probed; decide +kernel, by decide, by unfold Agree; decide +kernel, by decide +kernel, by decide, by decide +kernel⟩

theorem witness_EncInitOpensTheStream : ∃ a b : Nat, 10 < a ∧ b ≤ 10 := ⟨11, 10, by decide⟩

/-- A state whose encoder is in a phase. -/
def encIn (p : EncPhase) (s : State) : State := { s with enc := { s.enc with phase := p } }

theorem witness_EncRunStateChecks :
    (∃ s : State, s.enc.phase = .idle) ∧ (∃ s : State, s.enc.phase = .failed) ∧
    (∃ (s : State) (f : Nat), s.enc.phase ≠ .idle ∧ s.enc.phase ≠ .failed ∧ 4 < f) ∧
    (∃ (s : State) (f : Nat), (s.enc.phase = .finishing ∨ s.enc.phase = .finished) ∧ f ≤ 4 ∧ (f ≠ 4 ∨ 0 < s.args.a1.toNat)) ∧
    ∃ s : State, s.enc.phase = .finished ∧ s.enc.out.fifo = [] ∧ s.args.a1 = 0#32 ∧
      Writable s s.args.a2.toNat s.args.a3.toNat :=
  ⟨⟨State.reset, rfl⟩, ⟨encIn .failed State.reset, rfl⟩, ⟨encIn .ready State.reset, 5, by decide, by decide, by decide⟩
  , ⟨encIn .finished (demo 0x1000 1 0 0 []), 4, .inr rfl, by decide, .inr (by decide)⟩
  , ⟨encIn .finished State.reset, rfl, rfl, rfl, writable_of_noHoles rfl (by decide) (by decide)⟩⟩

theorem witness_EncRunCompletes :
    ∃ (s : State) (f : Nat), s.enc.phase ≠ .idle ∧ s.enc.phase ≠ .failed ∧ f ≤ 4 ∧
      (s.enc.phase = .finishing ∨ s.enc.phase = .finished → f = 4 ∧ s.args.a1.toNat = 0) ∧
      Readable s s.args.a0.toNat s.args.a1.toNat ∧ Writable s s.args.a2.toNat s.args.a3.toNat ∧
      Apart s.args.a0.toNat s.args.a1.toNat s.args.a2.toNat s.args.a3.toNat :=
  ⟨encIn .ready (demo 0x1000 5 0x2000 64 []), 4, by decide, by decide, by decide, by decide
  , readable_of_noHoles rfl (by decide) (by decide), writable_of_noHoles rfl (by decide) (by decide), by unfold Apart; decide⟩

/-- A finishing stream with three bytes pending and room for `m`. -/
def finishing (m : Word) : State :=
  { encIn .finishing (demo 0 0 0x2000 m []) with
    enc := { Enc.reset with phase := .finishing, out := { BitSink.reset with fifo := [1#8, 0#8, 2#8] } } }

theorem witness_FinishingStreamDrains :
    ∀ m : Word, m = 3#32 ∨ m = 2#32 → ∃ s : State, s.mem.wf = true ∧ s.enc.phase = .finishing ∧ s.args.a1 = 0#32 ∧
      Writable s s.args.a2.toNat m.toNat ∧ s.args.a3 = m ∧ s.enc.out.fifo.length = 3 := by
  intro m hm
  refine ⟨finishing m, rfl, rfl, rfl, writable_of_noHoles rfl (fun _ => by decide : _ → (0x2000#32).toNat ≠ 0) ?_, rfl, rfl⟩
  rcases hm with rfl | rfl <;> decide

theorem witness_EmptyStreamBytes :
    ∃ (s : State) (lv : Nat), s.mem.wf = true ∧ lv ≤ 10 ∧ s.args.a1 = 0#32 ∧ Writable s s.args.a2.toNat s.args.a3.toNat ∧
      11 ≤ s.args.a3.toNat :=
  ⟨demo 0 0 0x2000 11 [], 10, rfl, by decide, rfl, writable_of_noHoles rfl (by decide) (by decide), by decide⟩

theorem witness_ParseCoversTheInput : ∃ e : Enc, ParseCovers e ∧ e.pos < e.input.length ∧ e.blockRaw < 16384 := by
  refine ⟨{ Enc.reset with input := [1#8] }, ⟨rfl, by decide, ?_, rfl, ?_, ?_⟩, by decide, by decide⟩
  · intro m h; simp [Enc.reset] at h
  · intro c h; simp [Enc.reset] at h
  · intro h; rfl

theorem witness_RlePackLosesNothing : ∀ l ∈ ([15, 0, 8] : List Nat), l ≤ 15 := by decide

theorem witness_PutbitsAppendsItsBits : ∃ o : BitSink, cleanSink o ∧ o.nbits = 7 :=
  ⟨{ BitSink.reset with bitbuf := 0x7F#32, nbits := 7 }, by unfold cleanSink; decide, rfl⟩

theorem witness_DecInitOpensTheStream :
    (∃ s : State, ¬ ∃ e < 32, s.args.a3.toNat = 2 ^ e) ∧
    (∃ s : State, (∃ e < 32, s.args.a3.toNat = 2 ^ e) ∧ 0 < s.args.a3.toNat ∧ s.args.a2 = 0#32) ∧
    (∃ s : State, (∃ e < 32, s.args.a3.toNat = 2 ^ e) ∧ s.args.a2 ≠ 0#32 ∧ 2 ^ 32 < s.args.a2.toNat + s.args.a3.toNat) ∧
    ∃ s : State, (∃ e < 32, s.args.a3.toNat = 2 ^ e) ∧ (0 < s.args.a3.toNat → s.args.a2 ≠ 0#32) ∧
      s.args.a2.toNat + s.args.a3.toNat ≤ 2 ^ 32 :=
  ⟨⟨demo 0 0 0x1000 0 [], by rintro ⟨e, -, h⟩; have := Nat.two_pow_pos e; simp [demo] at h; omega⟩
  , ⟨demo 0 0 0 1 [], ⟨0, by decide, rfl⟩, by decide, rfl⟩
  , ⟨demo 0 0 0x80000001 0x80000000 [], ⟨31, by decide, by decide⟩, by decide, by decide⟩
  , ⟨demo 0 0 0x80000000 0x80000000 [], ⟨31, by decide, by decide⟩, by decide, by decide⟩⟩

theorem witness_DecRunWithoutAnOpenStream :
    (∃ s : State, s.dec.phase = .idle) ∧ (∃ s : State, s.dec.phase = .failed ∧ 0x10 ≤ s.dec.fcode.toNat) ∧
      ∃ s : State, s.dec.phase = .done :=
  ⟨⟨State.reset, rfl⟩, ⟨{ State.reset with dec := { Dec.reset with phase := .failed, fcode := 0x14#8 } }, rfl, by decide⟩
  , ⟨{ State.reset with dec := { Dec.reset with phase := .done } }, rfl⟩⟩

/-- An open decoder stream in an output mode, its window at 0x3000. -/
def decIn (om : OMode) : State :=
  { demo 0x1000 5 0x2000 64 [] with
    dec := { Dec.reset with phase := .bhdr, omode := om, wbase := 0x3000#32, wsize := 0x100#32 } }

theorem witness_DecRunCompletes :
    ∀ om : OMode, ∃ s : State, s.dec.omode = om ∧ s.mem.wf = true ∧ openStream s.dec ∧ Readable s s.args.a0.toNat s.args.a1.toNat ∧
      decReady s s.args.a1.toNat s.args.a2.toNat s.args.a3.toNat := by
  intro om
  refine ⟨decIn om, rfl, rfl, by unfold openStream; simp [decIn], readable_of_noHoles rfl (fun _ => (by decide : (0x1000#32).toNat ≠ 0))
    (by decide : (0x1000#32).toNat + (5#32).toNat ≤ 2 ^ 32), ?_⟩
  have w : Writable (decIn om) (0x3000#32).toNat (0x100#32).toNat := writable_of_noHoles rfl (by decide) (by decide)
  have r : Readable (decIn om) (0x3000#32).toNat (0x100#32).toNat := readable_of_noHoles rfl (by decide) (by decide)
  have a : Apart (0x1000#32).toNat (5#32).toNat (0x3000#32).toNat (0x100#32).toNat := by unfold Apart; decide
  cases om
  · exact ⟨writable_of_noHoles rfl (fun _ => (by decide : (0x2000#32).toNat ≠ 0))
      (by decide : (0x2000#32).toNat + (64#32).toNat ≤ 2 ^ 32), by unfold Apart; decide⟩
  · exact ⟨w, r, a, by decide, by decide, by decide⟩
  · exact ⟨w, r, a, by decide⟩

/-- A final stored block of two bytes under way. -/
def copying : State :=
  { demo 0x1000 2 0x2000 2 [(0x1000, [7#8, 9#8])] with
    dec := { Dec.reset with phase := .storedCopy, bfinal := true, remaining := 2, opos := 32767 } }

theorem witness_StoredBlockIsCopied :
    ∃ (s : State) (n : Nat), Inv s ∧ n = s.args.a1.toNat ∧ s.dec.phase = .storedCopy ∧ s.dec.omode = .stream ∧
      s.dec.zlib = false ∧ s.dec.bfinal = true ∧ s.dec.nbits = 0 ∧ s.dec.bitbuf = 0#32 ∧ s.dec.remaining = n ∧
      n ≤ s.args.a3.toNat ∧ Readable s s.args.a0.toNat n ∧ Writable s s.args.a2.toNat s.args.a3.toNat ∧
      Apart s.args.a0.toNat n s.args.a2.toNat s.args.a3.toNat :=
  ⟨copying, 2, by constructor <;> decide +kernel, rfl, rfl, rfl, rfl, rfl, rfl, rfl, rfl, by decide
  , readable_of_noHoles rfl (by decide) (by decide), writable_of_noHoles rfl (by decide) (by decide)
  , by unfold Apart; decide⟩

/-- A run in COPY in an output mode, one byte of output so far, the match repeating it to the end of a four-byte window. -/
def backRef (om : OMode) : Run :=
  { s := { demo 0 0 0 0 [(0x3000, [5#8])] with
      ddict := [(0, 5#8)]
      dec := { Dec.reset with
        phase := .copy, omode := om, wbase := 0x3000#32, wsize := 4#32, opos := 1, hist := 1, mdist := 1, mlen := 3 } }
    c := 0, w := 1 }

theorem witness_BackReferenceRepeatsTheOutput :
    ∀ om : OMode, ∃ (r : Run) (o m : Nat), r.s.dec.omode = om ∧ r.s.mem.wf = true ∧ rising r.s.ddict = true ∧
      copyReady r.s o m r.w ∧ r.s.dec.mdist < r.s.dec.mlen := by
  intro om
  refine ⟨backRef om, 0x2000, 4, rfl, rfl, rfl, ?_, (by decide : 1 < 3)⟩
  have w : Writable (backRef om).s (0x3000#32).toNat (4#32).toNat := writable_of_noHoles rfl (by decide) (by decide)
  have r : Readable (backRef om).s (0x3000#32).toNat (4#32).toNat := readable_of_noHoles rfl (by decide) (by decide)
  cases om
  · exact ⟨by decide, by decide, by decide, by decide, by decide, writable_of_noHoles rfl (by decide) (by decide)⟩
  · exact ⟨by decide, by decide, by decide, by decide, r, w⟩
  · exact ⟨by decide, by decide, by decide, by decide, by decide, r, w⟩

theorem witness_TakeReadsTheNextBits :
    ∃ (r : Run) (i n k : Nat), k ≤ 32 ∧ r.s.dec.nbits ≤ 7 ∧ r.s.dec.bitbuf.toNat < 2 ^ r.s.dec.nbits ∧
      (r.s.dec.nbits = 0 ∨ k ≤ 24) ∧ r.c ≤ n ∧ Readable r.s i n ∧ k ≤ r.s.dec.nbits + 8 * (n - r.c) :=
  ⟨{ s := demo 0 0 0 0 [], c := 0, w := 0 }, 0x1000, 4, 32, by decide, by decide, by decide, .inl rfl, by decide
  , readable_of_noHoles rfl (by decide) (by decide), by decide⟩

theorem witness_NameCheckFindsTheFirstBadByte :
    (∃ s : State, 0xFFFF < s.args.a1.toNat) ∧
    (∃ s : State, s.args.a1.toNat ≤ 0xFFFF ∧ Readable s s.args.a0.toNat s.args.a1.toNat ∧ s.args.a1.toNat = 0xFFFF) ∧
    ((ascii "/etc").head? = some 0x2F#8) ∧ ((ascii "a.txt").head? ≠ some 0x2F#8 ∧ ∀ b ∈ ascii "a.txt", b ≠ 0x5C#8 ∧ b ≠ 0x3A#8) ∧
    ((∀ b ∈ (ascii "c:x").take 1, b ≠ 0x5C#8 ∧ b ≠ 0x3A#8) ∧ (ascii "c:x")[1]? = some 0x3A#8) ∧
    ([0x5C#8] : List Byte)[0]? = some 0x5C#8 :=
  ⟨⟨demo 0 0x10000 0 0 [], by decide⟩, ⟨demo 0x1000 0xFFFF 0 0 [], by decide, readable_of_noHoles rfl (by decide) (by decide)
    , by decide⟩, by decide, by decide, by decide, by decide⟩

/-- A state for the three record writers: the name at 0x1000, the destination 0x2000. -/
def writing : State :=
  { demo 0x2000 0x1000 0 0x41 [(0x1000, ascii "a.txt")] with zf := helloEntry, ze := { ZipEnd.reset with nent := 0xFFFE } }

theorem writing_readable : Readable writing (0x1000#32).toNat 5 ∧ ∀ a : Word, Readable writing a.toNat 0 :=
  ⟨readable_of_noHoles rfl (by decide) (by decide), fun a => readable_of_noHoles rfl (by omega) (by have := a.isLt; omega)⟩

theorem witness_LhWriteStoresTheHeader :
    ∃ (s : State) (align pad : Nat) (bs : List Byte), s.mem.wf = true ∧ (align ≤ 1 ∨ ∃ e < 16, align = 2 ^ e) ∧
      (s.zf.method = 0#16 ∨ s.zf.method = 8#16) ∧ (align ≤ 1 → pad = 0) ∧
      (1 < align → pad < align ∧ (s.args.a3.toNat + pad) % align = 0) ∧
      bs = List.replicate pad 0#8 ++ localHeader s.zf ++ bytesAt s s.args.a1.toNat s.zf.nameLen.toNat ++
        bytesAt s s.args.a2.toNat s.zf.extraLen.toNat ∧
      Readable s s.args.a1.toNat s.zf.nameLen.toNat ∧ Readable s s.args.a2.toNat s.zf.extraLen.toNat ∧
      Writable s s.args.a0.toNat bs.length ∧ Apart s.args.a1.toNat s.zf.nameLen.toNat s.args.a0.toNat bs.length ∧
      Apart s.args.a2.toNat s.zf.extraLen.toNat s.args.a0.toNat bs.length ∧ s.args.a3.toNat + pad < 0xFFFFFFFF ∧
      s.zf.csize ≠ 0xFFFFFFFF#32 ∧ s.zf.usize ≠ 0xFFFFFFFF#32 := by
  have hl : ([0#8, 0#8, 0#8] ++ helloHeader).length = 38 := by decide
  exact ⟨writing, 4, 3, [0#8, 0#8, 0#8] ++ helloHeader, by decide +kernel, .inr ⟨2, by decide, rfl⟩, .inl rfl, by decide
    , by decide, by decide +kernel, writing_readable.1, writing_readable.2 _
    , writable_of_noHoles rfl (by decide) (by rw [hl]; decide), by rw [hl]; unfold Apart; decide
    , by rw [hl]; unfold Apart; decide, by decide, by decide, by decide⟩

theorem witness_CdAndEocdWritesStoreTheRecords :
    (∃ (s : State) (bs : List Byte), s.mem.wf = true ∧ Writable s s.args.a0.toNat bs.length ∧
      (s.zf.method = 0#16 ∨ s.zf.method = 8#16) ∧
      bs = centralRecord s.zf ++ bytesAt s s.args.a1.toNat s.zf.nameLen.toNat ++
        bytesAt s s.args.a2.toNat s.zf.extraLen.toNat ++ bytesAt s s.args.a3.toNat s.zf.commentLen.toNat ∧
      Readable s s.args.a1.toNat s.zf.nameLen.toNat ∧ Readable s s.args.a2.toNat s.zf.extraLen.toNat ∧
      Readable s s.args.a3.toNat s.zf.commentLen.toNat ∧
      Apart s.args.a1.toNat s.zf.nameLen.toNat s.args.a0.toNat bs.length ∧
      Apart s.args.a2.toNat s.zf.extraLen.toNat s.args.a0.toNat bs.length ∧
      Apart s.args.a3.toNat s.zf.commentLen.toNat s.args.a0.toNat bs.length ∧ s.zf.csize ≠ 0xFFFFFFFF#32 ∧
      s.zf.usize ≠ 0xFFFFFFFF#32 ∧ s.zf.lhOfs ≠ 0xFFFFFFFF#32) ∧
    ∃ (s : State) (bs : List Byte), s.mem.wf = true ∧ Writable s s.args.a0.toNat bs.length ∧
      bs = endRecord s.ze ++ bytesAt s s.args.a1.toNat s.ze.commentLen.toNat ∧
      Readable s s.args.a1.toNat s.ze.commentLen.toNat ∧
      Apart s.args.a1.toNat s.ze.commentLen.toNat s.args.a0.toNat bs.length ∧ s.ze.nent.toNat < 0xFFFF ∧
      s.ze.cdSize ≠ 0xFFFFFFFF#32 ∧ s.ze.cdOfs ≠ 0xFFFFFFFF#32 := by
  have hl : helloRecord.length = 51 := by decide
  have he : (endRecord writing.ze).length = 22 := by decide
  refine ⟨⟨writing, helloRecord, by decide +kernel, ?_, .inl rfl, by decide +kernel, writing_readable.1, writing_readable.2 _
    , writing_readable.2 _, ?_, ?_, ?_, by decide, by decide, by decide⟩
    , ⟨writing, endRecord writing.ze, by decide +kernel, ?_, by decide +kernel, writing_readable.2 _, ?_, by decide, by decide
    , by decide⟩⟩
  · rw [hl]; exact writable_of_noHoles rfl (by decide) (by decide)
  · rw [hl]; unfold Apart; decide
  · rw [hl]; unfold Apart; decide
  · rw [hl]; unfold Apart; decide
  · rw [he]; exact writable_of_noHoles rfl (by decide) (by decide)
  · rw [he]; unfold Apart; decide

/-- The tail of the 113-byte archive at 0x1000, its end record at archive offset 91, host address 0x1008. -/
def tail : State := demo 0x1000 30 113 0 [(0x1008, helloEnd)]

theorem witness_EocdFindTakesTheHighestRecord :
    (∃ (s : State) (len sz lo : Nat) (arc : Nat → Nat), len = s.args.a1.toNat ∧ sz = s.args.a2.toNat ∧ len ≤ sz ∧ 22 ≤ len ∧
      Readable s s.args.a0.toNat len ∧ lo = max (sz - len) (sz - 65557) ∧
      (∀ q, arc q = s.args.a0.toNat + (q - (sz - len))) ∧ ∃ p, lo ≤ p ∧ p + 22 ≤ sz ∧ full s (arc p) = 0x06054B50 ∧
      (∀ q, p < q → q + 22 ≤ sz → full s (arc q) ≠ 0x06054B50) ∧ p + 22 + half s (arc p + 20) ≤ sz ∧
      half s (arc p + 4) = 0 ∧ half s (arc p + 6) = 0 ∧ half s (arc p + 8) = half s (arc p + 10) ∧
      half s (arc p + 10) ≠ 0xFFFF ∧ full s (arc p + 12) ≠ 0xFFFFFFFF ∧ full s (arc p + 16) ≠ 0xFFFFFFFF ∧
      46 * half s (arc p + 10) ≤ full s (arc p + 12) ∧ full s (arc p + 16) + full s (arc p + 12) ≤ p) ∧
    ∃ (s : State) (len sz : Nat), len = s.args.a1.toNat ∧ sz = s.args.a2.toNat ∧ len ≤ sz ∧ 22 ≤ len ∧
      Readable s s.args.a0.toNat len ∧
      ∀ q, max (sz - len) (sz - 65557) ≤ q → q + 22 ≤ sz → full s (s.args.a0.toNat + (q - (sz - len))) ≠ 0x06054B50 := by
  refine ⟨⟨tail, 30, 113, 83, fun q => 0x1000 + (q - 83), rfl, rfl, by decide, by decide,
    readable_of_noHoles rfl (by decide) (by decide), by decide, fun q => rfl, 91, by decide, by decide, by decide +kernel,
    fun q h1 h2 => by omega, by decide +kernel, by decide +kernel, by decide +kernel, by decide +kernel, by decide +kernel,
    by decide +kernel, by decide +kernel, by decide +kernel, by decide +kernel⟩,
    demo 0x1000 22 22 0 [], 22, 22, rfl, rfl, le_refl _, le_refl _, readable_of_noHoles rfl (by decide) (by decide),
    fun q h1 h2 => ?_⟩
  have : q = 0 := by omega
  subst this
  decide +kernel

/-- The central-directory record at 0x1000, with a byte changed. -/
def recordState (av : Word) (change : List (Nat × List Byte)) : State := demo 0x1000 av 113 0 ((0x1000, helloRecord) :: change)

theorem witness_CdParseLoadsTheEntry :
    (∀ av : Word, av = 45#32 ∨ av = 51#32 → Readable (recordState av []) (0x1000#32).toNat av.toNat) ∧ (45#32).toNat < 46 ∧
    full (recordState 51 [(0x1000, [0x51#8])]) 0x1000 ≠ 0x02014B50 ∧
    (full (recordState 51 [(0x1008, [1#8])]) 0x1000 = 0x02014B50 ∧
      46 + half (recordState 51 [(0x1008, [1#8])]) 0x101C + half (recordState 51 [(0x1008, [1#8])]) 0x101E
        + half (recordState 51 [(0x1008, [1#8])]) 0x1020 ≤ 51 ∧ half (recordState 51 [(0x1008, [1#8])]) 0x1022 = 0 ∧
      (half (recordState 51 [(0x1008, [1#8])]) 0x1008).testBit 0 = true) ∧
    goodCentral (recordState 51 []) 0x1000 51 113 := by
  refine ⟨?_, by decide, by decide +kernel, by decide +kernel, by unfold goodCentral; decide +kernel⟩
  rintro av (rfl | rfl) <;> exact readable_of_noHoles rfl (by decide) (by decide)

theorem witness_LhCheckAcceptsAMatchingHeader :
    ∃ s : State, Readable s s.args.a0.toNat s.args.a1.toNat ∧ Readable s s.args.a3.toNat s.zf.nameLen.toNat ∧
      30 + s.zf.nameLen.toNat ≤ s.args.a1.toNat ∧ full s s.args.a0.toNat = 0x04034B50 ∧
      half s (s.args.a0.toNat + 8) = s.zf.method.toNat ∧ half s (s.args.a0.toNat + 26) = s.zf.nameLen.toNat ∧
      bytesAt s (s.args.a0.toNat + 30) s.zf.nameLen.toNat = bytesAt s s.args.a3.toNat s.zf.nameLen.toNat ∧
      (full s (s.args.a0.toNat + 14) = s.zf.crc.toNat ∧ full s (s.args.a0.toNat + 18) = s.zf.csize.toNat ∧
        full s (s.args.a0.toNat + 22) = s.zf.usize.toNat) ∧ s.zf.method = 0#16 ∧
      s.zf.lhOfs.toNat + 30 + s.zf.nameLen.toNat + half s (s.args.a0.toNat + 28) + s.zf.csize.toNat ≤ s.args.a2.toNat :=
  ⟨helloChecked, readable_of_noHoles rfl (by decide) (by decide), readable_of_noHoles rfl (by decide) (by decide), by decide
  , by decide +kernel, by decide +kernel, by decide +kernel, by decide +kernel, by decide +kernel, rfl, by decide +kernel⟩

theorem witness_NameCmpOrdersNames :
    (∃ s : State, s.args.a1.toNat ≤ 0xFFFF ∧ s.args.a3.toNat ≤ 0xFFFF ∧ Readable s s.args.a0.toNat s.args.a1.toNat ∧
      Readable s s.args.a2.toNat s.args.a3.toNat ∧
      (bytesAt s s.args.a0.toNat s.args.a1.toNat).map (folded false)
        = (bytesAt s s.args.a2.toNat s.args.a3.toNat).map (folded false)) ∧
    (∃ s : State, Readable s s.args.a0.toNat s.args.a1.toNat ∧ Readable s s.args.a2.toNat s.args.a3.toNat ∧
      ∃ p x y xs ys, (bytesAt s s.args.a0.toNat s.args.a1.toNat).map (folded true) = p ++ x :: xs ∧
        (bytesAt s s.args.a2.toNat s.args.a3.toNat).map (folded true) = p ++ y :: ys ∧ x < y) ∧
    ∃ s : State, Readable s s.args.a0.toNat s.args.a1.toNat ∧ Readable s s.args.a2.toNat s.args.a3.toNat ∧
      ∃ p x xs, (bytesAt s s.args.a0.toNat s.args.a1.toNat).map (folded true) = p ++ x :: xs ∧
        (bytesAt s s.args.a2.toNat s.args.a3.toNat).map (folded true) = p :=
  ⟨⟨demo 0x1000 1 0x2000 1 [(0x1000, ascii "A"), (0x2000, ascii "a")], by decide, by decide
    , readable_of_noHoles rfl (by decide) (by decide), readable_of_noHoles rfl (by decide) (by decide), by decide +kernel⟩
  , ⟨demo 0x1000 1 0x2000 1 [(0x1000, ascii "A"), (0x2000, ascii "a")], readable_of_noHoles rfl (by decide) (by decide)
    , readable_of_noHoles rfl (by decide) (by decide), [], 0x41, 0x61, [], [], by decide +kernel⟩
  , ⟨demo 0x1000 2 0x2000 1 [(0x1000, ascii "ab"), (0x2000, ascii "a")], readable_of_noHoles rfl (by decide) (by decide)
    , readable_of_noHoles rfl (by decide) (by decide), [0x61], 0x62, [], by decide +kernel⟩⟩

theorem witness_VerifyChecksSizeThenCrc :
    (∃ s : State, s.args.a0 ≠ s.zf.usize) ∧ (∃ s : State, s.args.a0 = s.zf.usize ∧ s.crcAcc ≠ s.zf.crc) ∧
      ∃ s : State, s.args.a0 = s.zf.usize ∧ s.crcAcc = s.zf.crc :=
  ⟨⟨demo 1 0 0 0 [], by decide⟩, ⟨{ State.reset with crcAcc := 1#32 }, rfl, by decide⟩, ⟨State.reset, rfl, rfl⟩⟩

theorem witness_CentralRecordRoundTrip :
    ∃ (s t : State) (total : Nat) (sz : Word), s.mem.wf = true ∧ exec .zipCdWrite s = .next t ∧ t.status.code = 0x00#8 ∧
      total = 46 + s.zf.nameLen.toNat + s.zf.extraLen.toNat + s.zf.commentLen.toNat ∧ s.zf.flags.getLsbD 0 = false ∧
      s.zf.flags.getLsbD 5 = false ∧ s.zf.flags.getLsbD 6 = false ∧ (s.zf.method = 0#16 → s.zf.usize = s.zf.csize) ∧
      (s.zf.usize ≠ 0#32 → s.zf.csize ≠ 0#32) ∧ s.zf.lhOfs.toNat + 30 + s.zf.csize.toNat ≤ sz.toNat ∧
      Readable s s.args.a0.toNat total :=
  ⟨writing, _, 51, 113#32, by decide +kernel, rfl, by decide +kernel, by decide, by decide, by decide, by decide, by decide
  , by decide, by decide, readable_of_noHoles rfl (by decide) (by decide)⟩

end Sys2Proof.Tests
end

section
/-! SUPPORT. The bitstream formatter's putbits: what each part of it does to the bits put out (00_scope.md R20; 10_state.md R84). -/

namespace Sys2Proof.Proofs

open Sys2Proof.Machine Sys2Proof.Claims

/-! Bits of a number, bit 0 first. -/

/-- Bits that agree below `n` are all that `bitsFirst` sees of a number. -/
theorem bitsFirst_congr {v w n : Nat} (h : ∀ i < n, v.testBit i = w.testBit i) : bitsFirst v n = bitsFirst w n :=
  List.map_congr_left fun i hi => h i (List.mem_range.mp hi)

theorem bitsFirst_mod_two_pow (v n : Nat) : bitsFirst (v % 2 ^ n) n = bitsFirst v n :=
  bitsFirst_congr fun i hi => by simp [hi]

/-- The first `m` bits, then those of the number moved down by `m`. -/
theorem bitsFirst_add (v m n : Nat) : bitsFirst v (m + n) = bitsFirst v m ++ bitsFirst (v >>> m) n := by
  simp [bitsFirst, List.range_add, Nat.testBit_shiftRight, Function.comp_def]

/-- A field placed above the `m` bits held follows them. -/
theorem bitsFirst_or_shiftLeft {b m : Nat} (hb : b < 2 ^ m) (x n : Nat) :
    bitsFirst (b ||| x <<< m) (m + n) = bitsFirst b m ++ bitsFirst x n := by
  have hlow : bitsFirst (b ||| x <<< m) m = bitsFirst b m :=
    bitsFirst_congr fun i hi => by simp [Nat.testBit_shiftLeft, hi]
  have hhigh : (b ||| x <<< m) >>> m = x := by
    rw [Nat.shiftRight_or_distrib, Nat.shiftLeft_shiftRight, Nat.shiftRight_eq_div_pow, Nat.div_eq_of_lt hb, Nat.zero_or]
  rw [bitsFirst_add, hlow, hhigh]

/-! Moving whole bytes to the FIFO. -/

@[simp] theorem spill_nbits (k : Nat) (o : BitSink) : (o.spill k).nbits = o.nbits - 8 * k := by
  induction k generalizing o with
  | zero => rfl
  | succ k ih => rw [BitSink.spill, ih]; dsimp only; omega

/-- Moving bytes out keeps the bits above `nbits` zero. -/
theorem spill_bitbuf_lt (k : Nat) (o : BitSink) (h : o.bitbuf.toNat < 2 ^ o.nbits) :
    (o.spill k).bitbuf.toNat < 2 ^ (o.spill k).nbits := by
  induction k generalizing o with
  | zero => exact h
  | succ k ih =>
    have hshift : o.bitbuf.toNat >>> 8 < 2 ^ (o.nbits - 8) := by
      rw [Nat.shiftRight_eq_div_pow, Nat.div_lt_iff_lt_mul (by decide), ← Nat.pow_add]
      exact h.trans_le (Nat.pow_le_pow_right (by decide) (by omega))
    exact ih _ (by simpa using hshift)

/-- Moving bytes that are there changes no bit put out and no bit's place. -/
theorem sinkBits_spill (k : Nat) (o : BitSink) (h : 8 * k ≤ o.nbits) : sinkBits (o.spill k) = sinkBits o := by
  induction k generalizing o with
  | zero => rfl
  | succ k ih =>
    have hsplit : bitsFirst o.bitbuf.toNat o.nbits =
        bitsFirst (o.bitbuf.setWidth 8).toNat 8 ++ bitsFirst (o.bitbuf >>> 8).toNat (o.nbits - 8) := by
      rw [BitVec.toNat_setWidth, bitsFirst_mod_two_pow, BitVec.toNat_ushiftRight, ← bitsFirst_add,
        Nat.add_sub_cancel' (by omega)]
    rw [BitSink.spill, ih _ (by dsimp only; omega)]
    simp [sinkBits, hsplit]

/-! Placing a field in the BitBuffer. -/

/-- The formatter with a field's bits above those it holds, before whole bytes leave (10_state.md R84). -/
def placeField (o : BitSink) (v n : Nat) : BitSink :=
  { o with bitbuf := o.bitbuf ||| (BitVec.ofNat 32 (v % 2 ^ n) <<< o.nbits), nbits := o.nbits + n }

@[simp] theorem placeField_nbits (o : BitSink) (v n : Nat) : (placeField o v n).nbits = o.nbits + n := rfl

theorem put_eq_spill_placeField (o : BitSink) (v n : Nat) : o.put (v, n) = (placeField o v n).spill ((o.nbits + n) / 8) := rfl

/-- A field that fits in the 32 bits of the BitBuffer loses none of its bits. -/
theorem placeField_bitbuf_toNat (o : BitSink) (v n : Nat) (hfit : o.nbits + n ≤ 32) :
    (placeField o v n).bitbuf.toNat = o.bitbuf.toNat ||| (v % 2 ^ n) <<< o.nbits := by
  have hv : v % 2 ^ n < 2 ^ n := Nat.mod_lt _ (Nat.two_pow_pos n)
  have hword : v % 2 ^ n < 2 ^ 32 := hv.trans_le (Nat.pow_le_pow_right (by decide) (by omega))
  have hshift : (v % 2 ^ n) <<< o.nbits < 2 ^ 32 :=
    (Nat.shiftLeft_lt hv).trans_le (Nat.pow_le_pow_right (by decide) (by omega))
  simp only [placeField, BitVec.toNat_or, BitVec.toNat_shiftLeft, BitVec.toNat_ofNat, Nat.mod_eq_of_lt hword,
    Nat.mod_eq_of_lt hshift]

section
variable {o : BitSink} (hclean : o.bitbuf.toNat < 2 ^ o.nbits) (v : Nat) {n : Nat} (hfit : o.nbits + n ≤ 32)
include hclean hfit

theorem sinkBits_placeField : sinkBits (placeField o v n) = sinkBits o ++ bitsFirst v n := by
  have hbuf : bitsFirst (placeField o v n).bitbuf.toNat (o.nbits + n) = bitsFirst o.bitbuf.toNat o.nbits ++ bitsFirst v n := by
    rw [placeField_bitbuf_toNat o v n hfit, bitsFirst_or_shiftLeft hclean, bitsFirst_mod_two_pow]
  calc sinkBits (placeField o v n)
      = o.fifo.flatMap (fun b => bitsFirst b.toNat 8) ++ bitsFirst (placeField o v n).bitbuf.toNat (o.nbits + n) := rfl
    _ = sinkBits o ++ bitsFirst v n := by rw [hbuf, ← List.append_assoc, sinkBits]

theorem placeField_bitbuf_lt : (placeField o v n).bitbuf.toNat < 2 ^ (placeField o v n).nbits := by
  rw [placeField_bitbuf_toNat o v n hfit]
  have hfield : (v % 2 ^ n) <<< o.nbits < 2 ^ (n + o.nbits) := Nat.shiftLeft_lt (Nat.mod_lt _ (Nat.two_pow_pos n))
  exact Nat.or_lt_two_pow (hclean.trans_le (Nat.pow_le_pow_right (by decide) (Nat.le_add_right _ _)))
    (by rwa [Nat.add_comm] at hfield)

end

/-! putbits. -/

/-- Settles O45: the field is placed above the fewer than 8 bits held, so it fits, and moving whole bytes out changes no bit. -/
theorem putbitsAppendsItsBits : Obligations.PutbitsAppendsItsBits := by
  intro o v n ⟨hheld, hclean⟩ hn
  have hfit : o.nbits + n ≤ 32 := by omega
  have hwhole : 8 * ((o.nbits + n) / 8) ≤ (placeField o v n).nbits := Nat.mul_div_le _ _
  have hleft : (placeField o v n).nbits - 8 * ((o.nbits + n) / 8) < 8 := by
    rw [placeField_nbits]
    omega
  rw [put_eq_spill_placeField]
  exact ⟨(sinkBits_spill _ _ hwhole).trans (sinkBits_placeField hclean v hfit),
    by rwa [spill_nbits], spill_bitbuf_lt _ _ (placeField_bitbuf_lt hclean v hfit)⟩

end Sys2Proof.Proofs
end

section
/-! SUPPORT. What a command may change and what it keeps: the parts of the state that a command's rule lets it write
(10_state.md R50 to R72), and the part of the invariant that a command's pseudocode keeps. -/

namespace Sys2Proof.Proofs

open Sys2Proof.Machine Sys2Proof.Claims

/-! Pre- and postconditions of pseudocode. -/

section
variable {ε σ α β : Type} {P P' : σ → Prop} {E E' : ε → σ → Prop}

/-- From every state with `P`, `m` succeeds with `Q` or fails with `E`. -/
def Triple (P : σ → Prop) (m : EStateM ε σ α) (Q : α → σ → Prop) (E : ε → σ → Prop) : Prop :=
  ∀ s, P s → match m s with
    | .ok a t => Q a t
    | .error e t => E e t

theorem Triple.bind {R : α → σ → Prop} {Q : β → σ → Prop} {m : EStateM ε σ α} {k : α → EStateM ε σ β}
    (hm : Triple P m R E) (hk : ∀ a, Triple (R a) (k a) Q E) : Triple P (m >>= k) Q E := by
  intro s hs
  have hms := hm s hs
  rw [bind_run]
  cases he : m s with
  | ok a t =>
    rw [he] at hms
    exact hk a t hms
  | error e t =>
    rw [he] at hms
    exact hms

theorem Triple.pure {Q : α → σ → Prop} {a : α} (h : ∀ s, P s → Q a s) : Triple P (pure a) Q E := h

theorem Triple.weaken {Q Q' : α → σ → Prop} {m : EStateM ε σ α} (hm : Triple P m Q E) (hP : ∀ s, P' s → P s)
    (hQ : ∀ a s, Q a s → Q' a s) (hE : ∀ e s, E e s → E' e s) : Triple P' m Q' E' := by
  intro s hs
  have hms := hm s (hP s hs)
  split at hms
  · exact hQ _ _ hms
  · exact hE _ _ hms

theorem Triple.loosen {Q : α → σ → Prop} {m : EStateM ε σ α} (hm : Triple P m Q E) (hE : ∀ e s, E e s → E' e s) :
    Triple P m Q E' :=
  hm.weaken (fun _ h => h) (fun _ _ h => h) hE

/-- A change of the state, and what follows it. -/
theorem Triple.modify {Q : β → σ → Prop} {f : σ → σ} {k : PUnit → EStateM ε σ β} (hf : ∀ s, P s → P' (f s))
    (hk : Triple P' (k ⟨⟩) Q E) : Triple P (modify f >>= k) Q E :=
  fun s hs => hk (f s) (hf s hs)

end

/-! The invariant of a command's pseudocode: `Inv` without what the completion writes. -/

/-- The encoder's part of `Inv`. -/
def SoundEnc (e : Enc) : Prop :=
  e.out.nbits < 8 ∧ e.level.toNat ≤ 10 ∧ rising e.fasttab = true ∧ ∀ c ∈ e.fasttab, c.1 < 4096

/-- The decoder's part of `Inv`. -/
def SoundDec (d : Dec) : Prop :=
  d.recorded = true ∧ d.hist ≤ 32768 ∧ (d.omode = .stream → d.opos < 32768) ∧ d.hlit ≤ 288 ∧ d.hdist ≤ 32 ∧
    d.clen.length = 19 ∧ (d.phase = .dynLens → d.lens.length ≤ d.hlit + d.hdist)

/-- The part of `Inv` that does not speak of the completion record. -/
structure Sound (s : State) : Prop where
  mem : s.mem.wf = true
  ddict : rising s.ddict = true ∧ ∀ c ∈ s.ddict, c.1 < 32768
  slots : ∀ k : Fin 4, (s.slots.get k).shaped = true
  enc : SoundEnc s.enc
  dec : SoundDec s.dec

theorem inv_iff {s : State} :
    Inv s ↔ Sound s ∧ ¬(s.status.busy = true ∧ s.status.cmpl = true) ∧ s.recorded = true := by
  constructor
  · intro ⟨hmem, hddict, hflags, hrecord, hslots, hbits, hlevel, hfasttab, hfailure, hhist, hopos, hcounts⟩
    exact ⟨⟨hmem, hddict, hslots, ⟨hbits, hlevel, hfasttab⟩, ⟨hfailure, hhist, hopos, hcounts⟩⟩, hflags, hrecord⟩
  · intro ⟨⟨hmem, hddict, hslots, ⟨hbits, hlevel, hfasttab⟩, ⟨hfailure, hhist, hopos, hcounts⟩⟩, hflags, hrecord⟩
    exact ⟨hmem, hddict, hflags, hrecord, hslots, hbits, hlevel, hfasttab, hfailure, hhist, hopos, hcounts⟩

/-! What a command may change. -/

/-- From `s` to `t` only the state changes that the command `i`, not RESET, may write. -/
structure Frame (i : Instr) (s t : State) : Prop where
  irqEn : t.irqEn = s.irqEn
  plat : t.plat = s.plat
  hostq : t.hostq = s.hostq
  busData : t.busData = s.busData
  args : t.args = s.args
  cmd : t.cmd = s.cmd
  ovr : t.status.ovr = s.status.ovr
  mem : ¬ storesToMemory i → t.mem = s.mem
  crc : ¬ writesCrc i → t.crcAcc = s.crcAcc
  adler : ¬ writesAdler i → t.adlerAcc = s.adlerAcc
  slots : ¬ writesSlots i → t.slots = s.slots
  entry : ¬ writesEntry i → t.zf = s.zf
  ends : ¬ writesEnd i → t.ze = s.ze
  enc : family i ≠ 4 → t.enc = s.enc
  dec : family i ≠ 5 → t.dec = s.dec ∧ t.ddict = s.ddict

/-- The command `i` begun in `s₀` has changed only what it may, and has kept the invariant. -/
structure Within (i : Instr) (s₀ s : State) : Prop where
  frame : Frame i s₀ s
  sound : Sound s₀ → Sound s

section
variable {i : Instr} {s₀ s : State}

theorem Within.start : Within i s₀ s₀ where
  frame := ⟨rfl, rfl, rfl, rfl, rfl, rfl, rfl, fun _ => rfl, fun _ => rfl, fun _ => rfl, fun _ => rfl, fun _ => rfl
    , fun _ => rfl, fun _ => rfl, fun _ => ⟨rfl, rfl⟩⟩
  sound h := h

theorem Within.setCrc (h : Within i s₀ s) (v : Word) (hi : writesCrc i := by exact trivial) :
    Within i s₀ (s.setCrc v) where
  frame := { h.frame with crc := fun hn => absurd hi hn }
  sound h₀ := { h.sound h₀ with }

theorem Within.setAdler (h : Within i s₀ s) (v : Word) (hi : writesAdler i := by exact trivial) :
    Within i s₀ (s.setAdler v) where
  frame := { h.frame with adler := fun hn => absurd hi hn }
  sound h₀ := { h.sound h₀ with }

theorem Within.setLhOfs (h : Within i s₀ s) (v : Word) (hi : writesEntry i := by exact trivial) :
    Within i s₀ (s.setLhOfs v) where
  frame := { h.frame with entry := fun hn => absurd hi hn }
  sound h₀ := { h.sound h₀ with }

theorem Within.setEntry (h : Within i s₀ s) (z : ZipEntry) (hi : writesEntry i := by exact trivial) :
    Within i s₀ { s with zf := z } where
  frame := { h.frame with entry := fun hn => absurd hi hn }
  sound h₀ := { h.sound h₀ with }

theorem Within.setEnds (h : Within i s₀ s) (z : ZipEnd) (hi : writesEnd i := by exact trivial) :
    Within i s₀ { s with ze := z } where
  frame := { h.frame with ends := fun hn => absurd hi hn }
  sound h₀ := { h.sound h₀ with }

theorem Within.setEnc (h : Within i s₀ s) (hi : family i = 4) {e : Enc} (he : SoundEnc s.enc → SoundEnc e) :
    Within i s₀ (s.setEnc e) where
  frame := { h.frame with enc := fun hn => absurd hi hn }
  sound h₀ := { h.sound h₀ with enc := he (h.sound h₀).enc }

theorem Within.setDec (h : Within i s₀ s) (hi : family i = 5) {d : Dec} (hd : SoundDec s.dec → SoundDec d) :
    Within i s₀ (s.setDec d) where
  frame := { h.frame with dec := fun hn => absurd hi hn }
  sound h₀ := { h.sound h₀ with dec := hd (h.sound h₀).dec }

theorem Within.setMem (h : Within i s₀ s) {m : Memory} (hm : s.mem.wf = true → m.wf = true)
    (hi : storesToMemory i := by exact trivial) : Within i s₀ { s with mem := m } where
  frame := { h.frame with mem := fun hn => absurd hi hn }
  sound h₀ := { h.sound h₀ with mem := hm (h.sound h₀).mem }

theorem Within.poke (h : Within i s₀ s) {a : Nat} (b : Byte) (ha : s.memOk a .write = true)
    (hi : storesToMemory i := by exact trivial) : Within i s₀ (s.poke a b) :=
  h.setMem (fun hm => Memory.wf_write b hm (State.memOk_lt ha)) hi

theorem Within.writeRange (h : Within i s₀ s) (a : Nat) (bs : List Byte) (hi : storesToMemory i := by exact trivial) :
    Within i s₀ (s.writeRange a bs).1 := by
  rw [State.writeRange_frame]
  exact h.setMem (State.writeRange_wf a bs) hi

end

/-! The opcode family of a command (30_encoding.md R182). -/

theorem packWord_family (opc mod imm : Nat) : (packWord opc mod imm).toNat / 16 % 16 = opc / 16 % 16 := by
  have hopc : (packWord opc mod imm).toNat % 256 = opc % 256 := by
    have h : (packWord opc mod imm).setWidth 8 = BitVec.ofNat 8 opc := BitVec.setWidth_append_eq_right
    simpa using congrArg BitVec.toNat h
  omega

end Sys2Proof.Proofs
end

section
/-! SUPPORT. A decode-table slot keeps its shape (10_state.md R71; 42_huffman.md R264, R265). -/

namespace Sys2Proof.Proofs

open Sys2Proof.Machine Sys2Proof.Claims

theorem shaped_iff {sl : Slot} : sl.shaped = true ↔ sl.n ≤ 288 ∧ sl.len.length = 288 ∧ (∀ l ∈ sl.len, l ≤ 15) ∧
    sl.used ≤ 288 ∧ sl.fast.length = 1024 ∧ sl.tree.length = 576 := by
  simp [Slot.shaped, and_assoc]

theorem shaped_empty : Slot.empty.shaped = true :=
  shaped_iff.mpr ⟨Nat.zero_le _, List.length_replicate, fun l h => by simp [List.eq_of_mem_replicate h], Nat.zero_le _
    , List.length_replicate, List.length_replicate⟩

/-- Entering codes changes the entries of a slot, not its lengths or the sizes of its tables. -/
def SameShape (a b : Slot) : Prop :=
  b.n = a.n ∧ b.len = a.len ∧ b.used = a.used ∧ b.fast.length = a.fast.length ∧ b.tree.length = a.tree.length

theorem SameShape.refl (a : Slot) : SameShape a a := ⟨rfl, rfl, rfl, rfl, rfl⟩

theorem SameShape.trans {a b c : Slot} : SameShape a b → SameShape b c → SameShape a c :=
  fun ⟨hn, hlen, hused, hfast, htree⟩ ⟨hn', hlen', hused', hfast', htree'⟩ =>
    ⟨hn'.trans hn, hlen'.trans hlen, hused'.trans hused, hfast'.trans hfast, htree'.trans htree⟩

theorem SameShape.shaped {a b : Slot} (h : SameShape a b) (ha : a.shaped = true) : b.shaped = true := by
  obtain ⟨hn, hlen, hused, hfast, htree⟩ := h
  rw [shaped_iff] at ha ⊢
  rwa [hn, hlen, hused, hfast, htree]

theorem length_foldl_set {β : Type} (ks : List Nat) (pos : Nat → Nat) (v : β) (f : List β) :
    (ks.foldl (fun f k => f.set (pos k) v) f).length = f.length := by
  induction ks generalizing f with
  | nil => rfl
  | cons k ks ih => rw [List.foldl_cons, ih, List.length_set]

theorem sameShape_enterShort (sl : Slot) (sym l r : Nat) : SameShape sl (enterShort sl sym l r) :=
  ⟨rfl, rfl, rfl, length_foldl_set _ _ _ _, rfl⟩

theorem sameShape_walkTree (r k b n : Nat) (sl : Slot) : SameShape sl (walkTree r k b n sl).2 := by
  induction k generalizing b n sl with
  | zero => exact SameShape.refl sl
  | succ k ih =>
    unfold walkTree
    dsimp only
    split
    · refine SameShape.trans ?_ (ih _ _ _)
      exact ⟨rfl, rfl, rfl, rfl, List.length_set⟩
    · exact ih _ _ _

theorem sameShape_enterLong (sl : Slot) (sym l r : Nat) : SameShape sl (enterLong sl sym l r) := by
  unfold enterLong
  refine SameShape.trans (SameShape.trans ?_ (sameShape_walkTree _ _ _ _ _)) ⟨rfl, rfl, rfl, rfl, List.length_set⟩
  split
  · exact ⟨rfl, rfl, rfl, List.length_set, rfl⟩
  · exact SameShape.refl sl

theorem sameShape_enterSymbol (sl : Slot) (sym l code : Nat) : SameShape sl (enterSymbol sl sym l code) := by
  unfold enterSymbol
  split
  · exact SameShape.refl sl
  · split
    · exact sameShape_enterShort sl sym l _
    · exact sameShape_enterLong sl sym l _

theorem sameShape_enterSymbols (es : List ((Nat × Nat) × Nat)) (sl : Slot) :
    SameShape sl (es.foldl (fun sl e => enterSymbol sl e.2 e.1.1 e.1.2) sl) := by
  induction es generalizing sl with
  | nil => exact SameShape.refl sl
  | cons e es ih => exact (sameShape_enterSymbol sl _ _ _).trans (ih _)

/-- The table of at most 288 lengths of at most 15 has the shape of a slot. -/
theorem shaped_tableOf {len : List Nat} (hn : len.length ≤ 288) (hl : ∀ l ∈ len, l ≤ 15) : (tableOf len).shaped = true := by
  refine (sameShape_enterSymbols _ _).shaped (shaped_iff.mpr
    ⟨hn, ?_, ?_, List.countP_le_length.trans hn, List.length_replicate, List.length_replicate⟩)
  · simpa using Nat.add_sub_cancel' hn
  · intro l hmem
    rcases List.mem_append.mp hmem with h | h
    · exact hl l h
    · simp [List.eq_of_mem_replicate h]

/-- Whatever dtable_build answers, the slot it leaves has its shape (42_huffman.md R264). -/
theorem shaped_builtSlot {len : List Nat} (hn : len.length ≤ 288) : (builtSlot (dtableBuild len)).shaped = true := by
  unfold dtableBuild
  split
  · exact shaped_empty
  · next hbad =>
    have hl : ∀ l ∈ len, l ≤ 15 := by simpa [badLength] using hbad
    split
    · exact shaped_empty
    · split
      · exact shaped_empty
      · exact shaped_tableOf hn hl

theorem slots_get_set (sl : Slots) (j k : Fin 4) (v : Slot) : (sl.set k v).get j = if j = k then v else sl.get j := by
  fin_cases j <;> fin_cases k <;> rfl

theorem Within.setSlot {i : Instr} {s₀ s : State} (h : Within i s₀ s) (k : Fin 4) {v : Slot}
    (hv : Sound s → v.shaped = true) (hi : writesSlots i := by exact trivial) : Within i s₀ (s.setSlot k v) where
  frame := { h.frame with slots := fun hn => absurd hi hn }
  sound h₀ := { h.sound h₀ with
    slots := fun j => by
      rw [State.setSlot_slots, slots_get_set]
      split
      · exact hv (h.sound h₀)
      · exact (h.sound h₀).slots j }

end Sys2Proof.Proofs
end

section
/-! SUPPORT. The rules of a command's pseudocode and of its completion, each rule stated with what follows the operation
(00_scope.md R19; 20_memory.md R145; 60_exceptions.md R580). -/

namespace Sys2Proof.Proofs

open Sys2Proof.Machine Sys2Proof.Claims

/-- A raise whose code is one of the table and whose cause is not 0 (60_exceptions.md R570, R572). -/
def LegalRaise (e : Raise) : Prop := e.code ∈ Code.all.map Code.toByte ∧ e.cause ≠ 0#8

/-- A command that finishes: it is within its bounds, and its code is no error. -/
def Finished (i : Instr) (s₀ : State) (f : Finish) (s : State) : Prop := Within i s₀ s ∧ isError f.code.toByte = false

/-- A command begun in `s₀` that raises in a state with `P`: its raise is a legal one. -/
def Failed (s₀ : State) (P : State → Prop) (e : Raise) (s : State) : Prop := P s ∧ (Sound s₀ → LegalRaise e)

/-- What a command's step must be: within the command's bounds, and a state with the invariant after one with it. -/
def Performed (i : Instr) (s t : State) : Prop := Frame i s t ∧ (Sound s → Inv t)

theorem toByte_mem_all (c : Code) : c.toByte ∈ Code.all.map Code.toByte :=
  List.mem_map_of_mem (by cases c <;> decide)

theorem cause_num_ne_zero (c : Cause) : c.num ≠ 0#8 := by cases c <;> decide

theorem isError_cause_code (c : Cause) : isError c.code.toByte = true := by cases c <;> rfl

theorem legalRaise_of_cause (c : Cause) (info r0 r1 : Word) :
    LegalRaise { code := c.code.toByte, cause := c.num, info := info, r0 := r0, r1 := r1 } :=
  ⟨toByte_mem_all _, cause_num_ne_zero c⟩

section
variable {i : Instr} {s₀ : State} {P : State → Prop} {β : Type} {Q : β → State → Prop}

theorem Triple.raise (c : Cause) (info : Nat) : Triple P (c.raise info) Q (Failed s₀ P) :=
  fun _ hs => ⟨hs, fun _ => legalRaise_of_cause c _ _ _⟩

theorem Triple.deny {bad : Bool} {c : Cause} {info : Nat} {k : Unit → Cmd β}
    (hk : bad = false → Triple P (k ()) Q (Failed s₀ P)) :
    Triple P (Machine.deny bad c info >>= k) Q (Failed s₀ P) := by
  cases bad
  · exact hk rfl
  · exact fun _ hs => ⟨hs, fun _ => legalRaise_of_cause c _ _ _⟩

theorem Triple.denyLast {bad : Bool} {c : Cause} {info : Nat} :
    Triple P (Machine.deny bad c info) (fun _ => P) (Failed s₀ P) := by
  cases bad
  · exact fun _ hs => hs
  · exact .raise c info

theorem Triple.checkRangeLast {a n : Nat} :
    Triple P (Machine.checkRange a n) (fun _ => P) (Failed s₀ P) := .deny fun _ => .denyLast

theorem Triple.checkRange {a n : Nat} {k : Unit → Cmd β} (hk : Triple P (k ()) Q (Failed s₀ P)) :
    Triple P (Machine.checkRange a n >>= k) Q (Failed s₀ P) := .bind .checkRangeLast fun _ => hk

theorem Triple.checkOverlap {ins : List (Nat × Nat)} {out : Nat × Nat} {k : Unit → Cmd β}
    (hk : Triple P (k ()) Q (Failed s₀ P)) :
    Triple P (Machine.checkOverlap ins out >>= k) Q (Failed s₀ P) := .deny fun _ => hk

theorem Triple.memReadLast {a n : Nat} : Triple P (Machine.memRead a n)
    (fun bs s => P s ∧ bs.length = n) (Failed s₀ P) := by
  intro s hs
  cases hr : s.readRange a n with
  | ok bs =>
    rw [memRead_ok hr]
    exact ⟨hs, by simp [(State.readRange_ok hr).2]⟩
  | error x =>
    rw [memRead_error hr]
    exact ⟨hs, fun _ => legalRaise_of_cause _ _ _ _⟩

theorem Triple.memRead {a n : Nat} {k : List Byte → Cmd β}
    (hk : ∀ bs : List Byte, bs.length = n → Triple P (k bs) Q (Failed s₀ P)) :
    Triple P (Machine.memRead a n >>= k) Q (Failed s₀ P) :=
  .bind .memReadLast fun bs s hs => hk bs hs.2 s hs.1

theorem Triple.memWrite {a : Nat} {bs : List Byte} {k : Unit → Cmd β}
    (hk : Triple (Within i s₀) (k ()) Q (Failed s₀ (Within i s₀))) (hi : storesToMemory i := by exact trivial) :
    Triple (Within i s₀) (Machine.memWrite a bs >>= k) Q (Failed s₀ (Within i s₀)) := by
  refine .bind (R := fun _ => Within i s₀) (fun s hs => ?_) fun _ => hk
  have hw := hs.writeRange a bs hi
  rw [memWrite_run]
  cases (s.writeRange a bs).2 with
  | none => exact hw
  | some x => exact ⟨hw, fun _ => legalRaise_of_cause _ _ _ _⟩

theorem Triple.finish {code : Code} (h : isError code.toByte = false) (r0 r1 : Nat) :
    Triple (Within i s₀) (Machine.finish code r0 r1) (Finished i s₀) (Failed s₀ (Within i s₀)) := fun _ hs => ⟨hs, h⟩

end

/-! The completion. -/

theorem Frame.complete {i : Instr} {s t : State} (h : Frame i s t) (code cause : Byte) (info r0 r1 : Word) :
    Frame i s (t.complete code cause info r0 r1) := { h with }

/-- A completion with a code of the table, and with a cause if the code is an error's, makes the invariant whole. -/
theorem Sound.complete {s : State} (h : Sound s) {code cause : Byte} (hcode : code ∈ Code.all.map Code.toByte)
    (hcause : isError code = true → cause ≠ 0#8) (info r0 r1 : Word) : Inv (s.complete code cause info r0 r1) := by
  refine inv_iff.mpr ⟨{ h with }, by simp, ?_⟩
  simp only [State.recorded, State.complete_status, State.complete_errCause, State.complete_errInfo, Bool.and_eq_true]
  refine ⟨List.contains_iff_mem.mpr hcode, ?_⟩
  by_cases he : isError code = true
  · simpa [he] using hcause he
  · simp [he]

theorem performed_of_finished {i : Instr} {s t : State} {f : Finish} (h : Finished i s f t) :
    Performed i s (t.complete f.code.toByte 0#8 0#32 f.r0 f.r1) :=
  ⟨h.1.frame.complete _ _ _ _ _, fun hs => (h.1.sound hs).complete (toByte_mem_all _) (by simp [h.2]) _ _ _⟩

theorem performed_of_failed {i : Instr} {s t : State} {e : Raise} (h : Failed s (Within i s) e t) :
    Performed i s (t.complete e.code e.cause e.info e.r0 e.r1) :=
  ⟨h.1.frame.complete _ _ _ _ _, fun hs => (h.1.sound hs).complete (h.2 hs).1 (fun _ => (h.2 hs).2) _ _ _⟩

/-- A command is performed within its bounds if its pseudocode, begun in `s`, ends so. -/
theorem performed_runCmd {i : Instr} {s t : State} {m : Cmd Finish}
    (hm : Triple (Within i s) m (Finished i s) (Failed s (Within i s))) (h : runCmd m s = .next t) : Performed i s t := by
  have hms := hm s Within.start
  unfold runCmd at h
  split at h
  · next f u he =>
    rw [he] at hms
    obtain rfl := Host.Outcome.next.inj h
    exact performed_of_finished hms
  · next e u he =>
    rw [he] at hms
    obtain rfl := Host.Outcome.next.inj h
    exact performed_of_failed hms

end Sys2Proof.Proofs
end

section
/-! SUPPORT. The commands, but for RESET and the two streams', change only what they may and keep the invariant. -/

namespace Sys2Proof.Proofs

open Sys2Proof.Machine Sys2Proof.Claims

section
variable {s t : State}

theorem performed_nop (h : execNop s = .next t) : Performed .nop s t := performed_runCmd (.finish rfl _ _) h

theorem performed_crcInit (h : execCrcInit s = .next t) : Performed .crcInit s t :=
  performed_runCmd (.modify (fun _ hs => hs.setCrc _) (.finish rfl _ _)) h

theorem performed_crcUpdate (h : execCrcUpdate s = .next t) : Performed .crcUpdate s t :=
  performed_runCmd (.checkRange (.memRead fun _ _ => .modify (fun _ hs => hs.setCrc _) (.finish rfl _ _))) h

theorem performed_crcByte {b : Byte} (h : execCrcByte b s = .next t) : Performed (.crcByte b) s t :=
  performed_runCmd (.modify (fun _ hs => hs.setCrc _) (.finish rfl _ _)) h

theorem performed_adlerInit (h : execAdlerInit s = .next t) : Performed .adlerInit s t :=
  performed_runCmd (.modify (fun _ hs => hs.setAdler _) (.finish rfl _ _)) h

theorem performed_adlerUpdate (h : execAdlerUpdate s = .next t) : Performed .adlerUpdate s t :=
  performed_runCmd (.checkRange (.memRead fun _ _ => .modify (fun _ hs => hs.setAdler _) (.finish rfl _ _))) h

theorem performed_adlerByte {b : Byte} (h : execAdlerByte b s = .next t) : Performed (.adlerByte b) s t :=
  performed_runCmd (.modify (fun _ hs => hs.setAdler _) (.finish rfl _ _)) h

theorem performed_hufLengths {maxlen : Nat} (h : execHufLengths maxlen s = .next t) : Performed (.hufLengths maxlen) s t :=
  performed_runCmd (.deny fun _ => .deny fun _ => .checkRange (.checkRange (.checkOverlap (.memRead fun _ _ =>
    .deny fun _ => .memWrite (.finish rfl _ _))))) h

/-- HUF_CODES' check of its lengths only raises. -/
theorem Triple.checkLengths {i : Instr} {s₀ : State} {len : List Nat} :
    Triple (Within i s₀) (Machine.checkLengths len) (fun _ => Within i s₀) (Failed s₀ (Within i s₀)) := by
  unfold Machine.checkLengths
  split
  · exact .raise _ _
  · exact .denyLast

theorem performed_hufCodes {reverse : Bool} (h : execHufCodes reverse s = .next t) : Performed (.hufCodes reverse) s t :=
  performed_runCmd (.deny fun _ => .checkRange (.checkRange (.checkOverlap (.memRead fun _ _ =>
    .bind .checkLengths fun _ => .memWrite (.finish rfl _ _))))) h

theorem Triple.finishTable {i : Instr} {s₀ : State} {r : Except (Cause × Nat) Slot} :
    Triple (Within i s₀) (Machine.finishTable r) (Finished i s₀) (Failed s₀ (Within i s₀)) := by
  unfold Machine.finishTable
  split
  · exact .finish rfl _ _
  · exact .raise _ _

/-- The slot's shape rests on the check that at most 288 lengths are read. -/
theorem performed_hufDtable {slot : Fin 4} (h : execHufDtable slot s = .next t) : Performed (.hufDtable slot) s t := by
  refine performed_runCmd (.deny fun _ => .deny fun hcount => .checkRange (.memRead fun bs hbs => ?_)) h
  have hlen : (bs.map BitVec.toNat).length ≤ 288 := by simpa [hbs] using hcount
  exact .modify (fun _ hs => hs.setSlot slot fun _ => shaped_builtSlot hlen) .finishTable

theorem Triple.finishDecode {i : Instr} {s₀ : State} {d : Decoded} :
    Triple (Within i s₀) (Machine.finishDecode d) (Finished i s₀) (Failed s₀ (Within i s₀)) := by
  cases d with
  | symbol i l => exact .finish rfl _ _
  | needMore => exact .finish rfl _ _
  | invalid => exact .raise _ _

theorem performed_hufDecode {slot : Fin 4} (h : execHufDecode slot s = .next t) : Performed (.hufDecode slot) s t :=
  performed_runCmd (.deny fun _ => .finishDecode) h

theorem performed_hufPeek {slot : Fin 4} {tree : Bool} {index : Nat} (h : execHufPeek slot tree index s = .next t) :
    Performed (.hufPeek slot tree index) s t :=
  performed_runCmd (.deny fun _ => .deny fun _ => .finish rfl _ _) h

theorem Triple.readWindow {i : Instr} {s₀ : State} {a n maxlen : Nat} :
    Triple (Within i s₀) (Machine.readWindow a n maxlen) (fun _ => Within i s₀) (Failed s₀ (Within i s₀)) := by
  unfold Machine.readWindow
  split
  · exact Triple.memReadLast.weaken (fun _ hs => hs) (fun _ _ hs => hs.1) fun _ _ he => he
  · exact .pure fun _ hs => hs

theorem performed_lzFind {reject filter : Bool} {probes : Nat} (h : execLzFind reject filter probes s = .next t) :
    Performed (.lzFind reject filter probes) s t :=
  performed_runCmd (.deny fun _ => .checkRange (.deny fun _ => .bind .readWindow fun _ => .finish rfl _ _)) h

theorem performed_lzHash {fast : Bool} (h : execLzHash fast s = .next t) : Performed (.lzHash fast) s t :=
  performed_runCmd (.finish rfl _ _) h

theorem Triple.checkNameFrom {i : Instr} {s₀ : State} (j : Nat) (name : List Byte) :
    Triple (Within i s₀) (Machine.checkNameFrom j name) (fun _ => Within i s₀) (Failed s₀ (Within i s₀)) := by
  induction name generalizing j with
  | nil => exact .pure fun _ hs => hs
  | cons b bs ih =>
    unfold Machine.checkNameFrom
    split
    · exact .raise _ _
    · split
      · exact .raise _ _
      · exact ih _

theorem performed_zipNameCheck (h : execZipNameCheck s = .next t) : Performed .zipNameCheck s t :=
  performed_runCmd (.deny fun _ => .checkRange (.memRead fun name _ => .deny fun _ =>
    .bind (Triple.checkNameFrom 0 name) fun _ => .finish rfl _ _)) h

theorem performed_zipLhWrite {align : Nat} (h : execZipLhWrite align s = .next t) : Performed (.zipLhWrite align) s t := by
  refine performed_runCmd (.deny fun _ => .deny fun _ => .checkRange (.checkRange (.checkRange (.checkOverlap
    (.deny fun _ => .memRead fun _ _ => .memRead fun _ _ => .memWrite ?_))))) h
  exact .modify (fun _ hs => hs.setLhOfs _) (.finish rfl _ _)

theorem performed_zipCdWrite (h : execZipCdWrite s = .next t) : Performed .zipCdWrite s t :=
  performed_runCmd (.deny fun _ => .checkRange (.checkRange (.checkRange (.checkRange (.checkOverlap (.deny fun _ =>
    .memRead fun _ _ => .memRead fun _ _ => .memRead fun _ _ => .memWrite (.finish rfl _ _))))))) h

theorem performed_zipEocdWrite (h : execZipEocdWrite s = .next t) : Performed .zipEocdWrite s t :=
  performed_runCmd (.checkRange (.checkRange (.checkOverlap (.deny fun _ => .deny fun _ => .memRead fun _ _ =>
    .memWrite (.finish rfl _ _))))) h

theorem Triple.takeEocd {s₀ : State} {p sz : Nat} {b : List Byte} :
    Triple (Within .zipEocdFind s₀) (Machine.takeEocd p sz b) (Finished .zipEocdFind s₀)
      (Failed s₀ (Within .zipEocdFind s₀)) :=
  .deny fun _ => .deny fun _ => .deny fun _ => .deny fun _ => .deny fun _ =>
    .modify (fun _ hs => hs.setEnds _) (.finish rfl _ _)

theorem performed_zipEocdFind (h : execZipEocdFind s = .next t) : Performed .zipEocdFind s t := by
  refine performed_runCmd (.deny fun _ => .checkRange (.deny fun _ => .memRead fun _ _ => ?_)) h
  split
  · exact .raise _ _
  · exact .takeEocd

theorem Triple.takeCentral {s₀ : State} {r av sz : Nat} {b : List Byte} :
    Triple (Within .zipCdParse s₀) (Machine.takeCentral r av sz b) (Finished .zipCdParse s₀)
      (Failed s₀ (Within .zipCdParse s₀)) :=
  .deny fun _ => .deny fun _ => .deny fun _ => .deny fun _ => .deny fun _ => .deny fun _ => .deny fun _ => .deny fun _ =>
    .deny fun _ => .modify (fun _ hs => hs.setEntry _) (.finish rfl _ _)

theorem performed_zipCdParse (h : execZipCdParse s = .next t) : Performed .zipCdParse s t :=
  performed_runCmd (.checkRange (.deny fun _ => .memRead fun _ _ => .takeCentral)) h

theorem performed_zipLhCheck (h : execZipLhCheck s = .next t) : Performed .zipLhCheck s t :=
  performed_runCmd (.checkRange (.checkRange (.deny fun _ => .memRead fun _ _ => .deny fun _ => .deny fun _ =>
    .deny fun _ => .memRead fun _ _ => .memRead fun _ _ => .deny fun _ => .deny fun _ => .deny fun _ => .deny fun _ =>
    .finish rfl _ _))) h

theorem performed_zipNameCmp {caseSensitive : Bool} (h : execZipNameCmp caseSensitive s = .next t) :
    Performed (.zipNameCmp caseSensitive) s t :=
  performed_runCmd (.deny fun _ => .deny fun _ => .checkRange (.checkRange (.memRead fun _ _ => .memRead fun _ _ =>
    .finish rfl _ _))) h

theorem performed_zipVerify (h : execZipVerify s = .next t) : Performed .zipVerify s t :=
  performed_runCmd (.deny fun _ => .deny fun _ => .finish rfl _ _) h

end

end Sys2Proof.Proofs
end

section
/-! SUPPORT. The rules of a run's pseudocode, which ENC_RUN and DEC_RUN share (45_encoder.md R390; 46_decoder.md R445). -/

namespace Sys2Proof.Proofs

open Sys2Proof.Machine Sys2Proof.Claims

/-- A run's end that its command may complete with: a code that is no error, a bus error, or corrupt data. -/
def LegalStop : Stop → Prop
  | .done code => isError code.toByte = false
  | .error c _ => c.code = .busError ∨ c.code = .corruptData

/-- A run of the command `i` begun in `s₀` is within its bounds, the decoder having `P`. -/
def Running (i : Instr) (s₀ : State) (P : Dec → Prop) (r : Run) : Prop := Within i s₀ r.s ∧ P r.s.dec

/-- A run that ends short: it is within its bounds, and its end is a legal one. -/
def Stopped (i : Instr) (s₀ : State) (e : Stop) (r : Run) : Prop := Within i s₀ r.s ∧ LegalStop e

section
variable {i : Instr} {s₀ : State} {P : Dec → Prop} {β : Type} {Q : β → Run → Prop}

theorem Triple.get {k : Run → RunM β} (hk : ∀ r, Triple (Running i s₀ P) (k r) Q (Stopped i s₀)) :
    Triple (Running i s₀ P) (get >>= k) Q (Stopped i s₀) := fun r hr => hk r r hr

theorem Triple.doneIf {stop : Bool} {code : Code} (h : isError code.toByte = false) :
    Triple (Running i s₀ P) (Machine.doneIf stop code) (fun _ => Running i s₀ P) (Stopped i s₀) := by
  cases stop
  · exact fun _ hr => hr
  · exact fun _ hr => ⟨hr.1, h⟩

theorem Triple.busRead {a : Nat} :
    Triple (Running i s₀ P) (Machine.busRead a) (fun _ => Running i s₀ P) (Stopped i s₀) := by
  intro r hr
  unfold Machine.busRead
  by_cases hok : r.s.memOk a .read = true
  · rw [if_pos hok]
    exact hr
  · rw [if_neg hok]
    exact ⟨hr.1, .inl rfl⟩

theorem Triple.busWrite {a : Nat} {b : Byte} (hi : storesToMemory i := by exact trivial) :
    Triple (Running i s₀ P) (Machine.busWrite a b) (fun _ => Running i s₀ P) (Stopped i s₀) := by
  intro r hr
  unfold Machine.busWrite
  by_cases hok : r.s.memOk a .write = true
  · rw [if_pos hok]
    exact ⟨hr.1.poke b hok hi, hr.2⟩
  · rw [if_neg hok]
    exact ⟨hr.1, .inl rfl⟩

end

end Sys2Proof.Proofs
end

section
/-! SUPPORT. The encoder's commands change only what they may and keep the invariant (10_state.md R54, R84;
45_encoder.md R380, R390). -/

namespace Sys2Proof.Proofs

open Sys2Proof.Machine Sys2Proof.Claims

/-! The encoder's part of the invariant (10_state.md R54, R84; 43_lz77.md R310). -/

theorem put_nbits_lt (o : BitSink) (field : Nat × Nat) : (o.put field).nbits < 8 := by
  unfold BitSink.put
  rw [spill_nbits]
  dsimp only
  omega

theorem puts_nbits_lt {o : BitSink} (fields : List (Nat × Nat)) (h : o.nbits < 8) : (o.puts fields).nbits < 8 := by
  induction fields generalizing o with
  | nil => exact h
  | cons f fields ih => exact ih (put_nbits_lt o f)

theorem putBlock_nbits_lt {e : Enc} (final : Bool) (h : e.out.nbits < 8) : (e.putBlock final).nbits < 8 := by
  unfold Enc.putBlock
  split
  · exact puts_nbits_lt _ (put_nbits_lt _ _)
  · exact puts_nbits_lt _ h
  · exact puts_nbits_lt _ h

theorem SoundEnc.withOut {e : Enc} (h : SoundEnc e) {o : BitSink} (ho : o.nbits < 8) : SoundEnc { e with out := o } :=
  ⟨ho, h.2⟩

theorem SoundEnc.closeBlock {e : Enc} (h : SoundEnc e) (final : Bool) : SoundEnc (e.closeBlock final) :=
  ⟨putBlock_nbits_lt final h.1, h.2⟩

theorem SoundEnc.emit {e : Enc} (h : SoundEnc e) (t : Token) : SoundEnc (e.emit t) := by
  unfold Enc.emit
  dsimp only
  split
  · refine SoundEnc.closeBlock ?_ false
    exact h
  · exact h

theorem SoundEnc.parseFresh {e : Enc} (h : SoundEnc e) (m : Match) : SoundEnc (e.parseFresh m) := by
  unfold Enc.parseFresh
  split
  · refine SoundEnc.emit ?_ _
    exact h
  · split
    · refine SoundEnc.emit ?_ _
      exact h
    · exact h

theorem SoundEnc.parseHeld {e : Enc} (h : SoundEnc e) (m held : Match) : SoundEnc (e.parseHeld m held) := by
  unfold Enc.parseHeld
  split
  · refine SoundEnc.emit ?_ _
    exact h
  · refine SoundEnc.emit ?_ _
    exact h

theorem slotHash_lt (bs : List Byte) : (slotHash bs).toNat < 4096 := by
  unfold slotHash hash12
  rw [BitVec.toNat_and]
  exact Nat.lt_succ_of_le Nat.and_le_right

theorem SoundEnc.search {e : Enc} (h : SoundEnc e) (maxlen : Nat) :
    SoundEnc { e with fasttab := (e.search maxlen).2 } := by
  obtain ⟨hbits, hlevel, hrising, hkeys⟩ := h
  unfold Enc.search fastSearch
  split
  · split
    · exact ⟨hbits, hlevel, hrising, hkeys⟩
    · refine ⟨hbits, hlevel, rising_putCell _ _ hrising, fun c hc => ?_⟩
      rcases mem_putCell hc with rfl | hc
      · exact slotHash_lt _
      · exact hkeys c hc
  · exact ⟨hbits, hlevel, hrising, hkeys⟩

theorem SoundEnc.step {e : Enc} (h : SoundEnc e) : SoundEnc e.step := by
  unfold Enc.step
  split
  · refine SoundEnc.emit ?_ _
    exact h
  · dsimp only
    split
    · exact (h.search _).parseHeld _ _
    · exact (h.search _).parseFresh _

theorem SoundEnc.parse {e : Enc} (h : SoundEnc e) (ahead k : Nat) : SoundEnc (Enc.parse ahead k e) := by
  induction k generalizing e with
  | zero => exact h
  | succ k ih =>
    unfold Enc.parse
    split
    · exact ih h.step
    · exact h

theorem SoundEnc.consume {e : Enc} (h : SoundEnc e) (b : Byte) : SoundEnc (e.consume b) := by
  refine SoundEnc.parse ?_ _ _
  exact h

theorem SoundEnc.boundary {e : Enc} (h : SoundEnc e) : SoundEnc e.boundary := by
  have hmarker : e.boundary.out.nbits < 8 := puts_nbits_lt _ (put_nbits_lt _ _)
  refine ⟨hmarker, ?_⟩
  unfold Enc.boundary
  dsimp only
  split
  · exact h.2
  · exact h.2

theorem SoundEnc.flush {e : Enc} (h : SoundEnc e) (f : Nat) : SoundEnc (e.flush f) := by
  have hparsed : SoundEnc (e.parse 1 (e.input.length - e.pos)) := h.parse _ _
  unfold Enc.flush
  dsimp only
  split
  · exact (hparsed.closeBlock true).withOut (puts_nbits_lt _ (put_nbits_lt _ _))
  · split
    · obtain ⟨hbits, hlevel, -⟩ := hparsed.boundary
      exact ⟨hbits, hlevel, rfl, fun c hc => by simp [Enc.resetDictionary] at hc⟩
    · exact hparsed.boundary

/-- ENC_INIT opens a sound encoder, its level being one it does not refuse (45_encoder.md R380). -/
theorem soundEnc_opened {lv : Nat} (h : lv ≤ 10) (flags : EncFlags) (arg0 : Word) :
    SoundEnc (Enc.opened lv flags arg0) := by
  refine ⟨?_, ?_, rfl, fun c hc => by simp [Enc.opened, Enc.reset] at hc⟩
  · unfold Enc.opened
    dsimp only
    split
    · exact puts_nbits_lt _ (by decide)
    · decide
  · simp only [Enc.opened, BitVec.toNat_ofNat]
    omega

theorem performed_encInit {level : Nat} {zlib forceStatic filter crcTap probesOvr : Bool} {s t : State}
    (h : execEncInit level zlib forceStatic filter crcTap probesOvr s = .next t) :
    Performed (.encInit level zlib forceStatic filter crcTap probesOvr) s t := by
  refine performed_runCmd (.deny fun hlevel => ?_) h
  have hlevel : level ≤ 10 := by simpa using hlevel
  exact .modify (fun _ hs => hs.setEnc (packWord_family _ _ _) fun _ => soundEnc_opened hlevel _ _) (.finish rfl _ _)


/-! ENC_RUN (45_encoder.md R390 to R397). -/

section
variable {f : Nat} {s₀ : State}

/-- A run of ENC_RUN within its bounds; it does not speak of the decoder. -/
abbrev Encoding (f : Nat) (s₀ : State) : Run → Prop := Running (.encRun f) s₀ fun _ => True

/-- A run of ENC_RUN that ends with a code: one that is no error. -/
def Encoded (f : Nat) (s₀ : State) (code : Code) (r : Run) : Prop := Encoding f s₀ r ∧ isError code.toByte = false

theorem family_encRun : family (.encRun f) = 4 := packWord_family _ _ _

theorem Triple.encPhase (p : EncPhase) :
    Triple (Encoding f s₀) (Machine.encPhase p) (fun _ => Encoding f s₀) (Stopped (.encRun f) s₀) :=
  fun _ hr => ⟨hr.1.setEnc family_encRun fun he => he, trivial⟩

theorem Triple.encShift (rest : List Byte) :
    Triple (Encoding f s₀) (Machine.encShift rest) (fun _ => Encoding f s₀) (Stopped (.encRun f) s₀) :=
  fun _ hr => ⟨hr.1.setEnc family_encRun fun he => he, trivial⟩

theorem Triple.encPending :
    Triple (Encoding f s₀) Machine.encPending (fun _ => Encoding f s₀) (Stopped (.encRun f) s₀) := fun _ hr => hr

theorem Triple.encStopIfPending :
    Triple (Encoding f s₀) Machine.encStopIfPending (fun _ => Encoding f s₀) (Stopped (.encRun f) s₀) :=
  .bind .encPending fun _ => .doneIf rfl

theorem Triple.encDrainUpTo (o m k : Nat) :
    Triple (Encoding f s₀) (Machine.encDrainUpTo o m k) (fun _ => Encoding f s₀) (Stopped (.encRun f) s₀) := by
  induction k with
  | zero => exact .pure fun _ hr => hr
  | succ k ih =>
    unfold Machine.encDrainUpTo
    refine .get fun r => ?_
    split
    · exact .pure fun _ hr => hr
    · split
      · exact .bind .busWrite fun _ => .bind (.encShift _) fun _ => ih
      · exact .pure fun _ hr => hr

theorem Triple.encDrain (o m : Nat) :
    Triple (Encoding f s₀) (Machine.encDrain o m) (fun _ => Encoding f s₀) (Stopped (.encRun f) s₀) :=
  .get fun _ => .encDrainUpTo o m _

theorem encoding_consume {r : Run} (hr : Encoding f s₀ r) (b : Byte) (c : Nat) :
    Encoding f s₀ { r with s := r.s.encConsume b, c := c } :=
  ⟨(hr.1.setEnc family_encRun fun he => he.consume b).setCrc _, trivial⟩

theorem Triple.encFeed (j o m k : Nat) :
    Triple (Encoding f s₀) (Machine.encFeed j o m k) (fun _ => Encoding f s₀) (Stopped (.encRun f) s₀) := by
  induction k with
  | zero => exact .pure fun _ hr => hr
  | succ k ih =>
    exact .bind .encStopIfPending fun _ => .get fun _ => .bind .busRead fun b =>
      .modify (fun _ hr => encoding_consume hr b _) (.bind (.encDrain o m) fun _ => ih)

theorem Triple.encAccept (j n o m : Nat) :
    Triple (Encoding f s₀) (Machine.encAccept j n o m f) (Encoded f s₀) (Stopped (.encRun f) s₀) := by
  have hflush : ∀ r, Encoding f s₀ r → Encoding f s₀ { r with s := r.s.setEnc (r.s.enc.flush f) } :=
    fun r hr => ⟨hr.1.setEnc family_encRun fun he => he.flush f, trivial⟩
  have hreturn : ∀ {code : Code}, isError code.toByte = false → ∀ r, Encoding f s₀ r → Encoded f s₀ code r :=
    fun h r hr => ⟨hr, h⟩
  refine .bind (.encFeed j o m n) fun _ => .bind .encStopIfPending fun _ => .bind (.doneIf rfl) fun _ =>
    .modify hflush (.bind (.encDrain o m) fun _ => .bind .encPending fun pending => ?_)
  split
  · split
    · exact .bind (.encPhase _) fun _ => .pure (hreturn rfl)
    · exact .bind (.encPhase _) fun _ => .pure (hreturn rfl)
  · split
    · exact .bind (.encPhase _) fun _ => .pure (hreturn rfl)
    · exact .pure (hreturn rfl)

theorem Triple.encBody (j n o m : Nat) :
    Triple (Encoding f s₀) (Machine.encBody j n o m f) (Encoded f s₀) (Stopped (.encRun f) s₀) := by
  refine .bind (.encDrain o m) fun _ => .bind .encStopIfPending fun _ => .get fun r => ?_
  split
  · exact .bind (.encPhase _) fun _ => .pure fun _ hr => ⟨hr, rfl⟩
  · exact .pure fun _ hr => ⟨hr, rfl⟩
  · refine .bind (.encPhase _) fun _ => ?_
    split
    · exact .pure fun _ hr => ⟨hr, rfl⟩
    · exact .encAccept j n o m
  · exact .encAccept j n o m
  · exact .encAccept j n o m
  · exact .encAccept j n o m

/-- The totals and the phase are no part of the encoder's invariant. -/
theorem Triple.encEnd (j n o m : Nat) :
    Triple (Within (.encRun f) s₀) (fun t => Machine.encEnd (Machine.encBody j n o m f { s := t, c := 0, w := 0 }))
      (Finished (.encRun f) s₀) (Failed s₀ (Within (.encRun f) s₀)) := by
  intro t ht
  have hrun := Triple.encBody (f := f) (s₀ := s₀) j n o m { s := t, c := 0, w := 0 } ⟨ht, trivial⟩
  have htally : ∀ r : Run, Within (.encRun f) s₀ r.s → Within (.encRun f) s₀ r.encTally :=
    fun r hr => hr.setEnc family_encRun fun he => he
  dsimp only
  split at hrun
  · next code r he =>
    rw [he]
    exact ⟨htally r hrun.1.1, hrun.2⟩
  · next e r he =>
    rw [he]
    cases e with
    | done code => exact ⟨htally r hrun.1, hrun.2⟩
    | error c info =>
      exact ⟨(htally r hrun.1).setEnc family_encRun fun he => he, fun _ => legalRaise_of_cause c _ _ _⟩

theorem Triple.encReject {β : Type} {Q : β → State → Prop} {bad : Bool} {c : Cause} {info : Nat} {k : Unit → Cmd β}
    (hk : Triple (Within (.encRun f) s₀) (k ()) Q (Failed s₀ (Within (.encRun f) s₀))) :
    Triple (Within (.encRun f) s₀) (Machine.encReject bad c info >>= k) Q (Failed s₀ (Within (.encRun f) s₀)) := by
  refine .bind (R := fun _ => Within (.encRun f) s₀) ?_ fun _ => hk
  unfold Machine.encReject
  split
  · exact .modify (fun _ hs => hs.setEnc family_encRun fun he => he) (.raise c info)
  · exact .pure fun _ hs => hs

theorem performed_encRun {t : State} (h : execEncRun f s₀ = .next t) : Performed (.encRun f) s₀ t :=
  performed_runCmd (.deny fun _ => .deny fun _ => .encReject (.encReject (.checkRange (.checkRange (.checkOverlap
    (.encEnd _ _ _ _)))))) h

end

end Sys2Proof.Proofs
end

section
/-! SUPPORT. The decoder's commands change only what they may and keep the invariant (10_state.md R58, R62, R64;
46_decoder.md R440, R445). -/

namespace Sys2Proof.Proofs

open Sys2Proof.Machine Sys2Proof.Claims

/-! The decoder's part of the invariant (10_state.md R58, R62, R64; 46_decoder.md R446, R462, R466). -/

/-- Outside FAILED the failure record is zeros, whichever state it is. -/
theorem recorded_setPhase {d : Dec} {p : DecPhase} (hd : d.phase ≠ .failed) (hp : p ≠ .failed) :
    ({ d with phase := p } : Dec).recorded = d.recorded := by
  simp [Dec.recorded, hd, hp]

theorem SoundDec.setPhase {d : Dec} (h : SoundDec d) {p : DecPhase} (hd : d.phase ≠ .failed) (hp : p ≠ .failed)
    (hlens : p = .dynLens → d.lens.length ≤ d.hlit + d.hdist) : SoundDec { d with phase := p } := by
  obtain ⟨hrecorded, hhist, hopos, hlit, hdist, hclen, -⟩ := h
  exact ⟨(recorded_setPhase hd hp).trans hrecorded, hhist, hopos, hlit, hdist, hclen, hlens⟩

/-- In STREAM mode the next position is again one of the window (46_decoder.md R480). -/
theorem nextPos_lt {d : Dec} (h : d.omode = .stream) : d.nextPos < 32768 := by
  rw [Dec.nextPos, h]
  exact Nat.mod_lt _ (by decide)

theorem SoundDec.outputByte {d : Dec} (h : SoundDec d) (adler : Word) :
    SoundDec { d with opos := d.nextPos, hist := min (d.hist + 1) Config.window, adler := adler } := by
  obtain ⟨hrecorded, -, -, hcounts⟩ := h
  exact ⟨hrecorded, Nat.min_le_right _ _, fun hstream => nextPos_lt (d := d) hstream, hcounts⟩

theorem family_decRun : family .decRun = 5 := packWord_family _ _ _

/-- An output byte enters DDICT at DEC_OPOS, an index of it in STREAM mode, and the checksums. -/
theorem Within.decCount {s₀ s : State} (h : Within .decRun s₀ s) (b : Byte) : Within .decRun s₀ (s.decCount b) where
  frame := { h.frame with
    crc := fun hn => absurd trivial hn
    dec := fun hn => absurd family_decRun hn }
  sound h₀ := { h.sound h₀ with
    dec := (h.sound h₀).dec.outputByte _
    ddict := by
      obtain ⟨hrising, hkeys⟩ := (h.sound h₀).ddict
      obtain ⟨-, -, hopos, -⟩ := (h.sound h₀).dec
      rw [State.decCount_ddict]
      split
      · next hstream =>
        refine ⟨rising_putCell _ _ hrising, fun c hc => ?_⟩
        rcases mem_putCell hc with rfl | hc
        · exact hopos hstream
        · exact hkeys c hc
      · exact ⟨hrising, hkeys⟩ }

/-- The decoder DEC_INIT opens is sound (46_decoder.md R440). -/
theorem soundDec_opened (zlib : Bool) (om : OMode) (crcTap : Bool) (wb ws : Word) :
    SoundDec (Dec.opened zlib om crcTap wb ws) := by
  have hrecorded : (Dec.opened zlib om crcTap wb ws).recorded = true := by cases zlib <;> rfl
  have hphase : (Dec.opened zlib om crcTap wb ws).phase ≠ .dynLens := by cases zlib <;> nofun
  exact ⟨hrecorded, Nat.zero_le _, fun _ => Nat.zero_lt_succ _, Nat.zero_le _, Nat.zero_le _, rfl, fun h => absurd h hphase⟩

theorem performed_decInit {zlib : Bool} {omode : Nat} {crcTap : Bool} {s t : State}
    (h : execDecInit zlib omode crcTap s = .next t) : Performed (.decInit zlib omode crcTap) s t := by
  have hopen : ∀ om wb ws (u : State), Within (.decInit zlib omode crcTap) s u →
      Within (.decInit zlib omode crcTap) s (u.setDec (Dec.opened zlib om crcTap wb ws)) :=
    fun om wb ws u hu => hu.setDec (packWord_family _ _ _) fun _ => soundDec_opened zlib om crcTap wb ws
  refine performed_runCmd ?_ h
  split
  · exact .raise _ _
  · next om _ =>
    have hwindow : Triple (Within (.decInit zlib omode crcTap) s) (checkWindow om s.args.a2 s.args.a3)
        (fun _ => Within (.decInit zlib omode crcTap) s) (Failed s (Within (.decInit zlib omode crcTap) s)) :=
      .deny fun _ => .checkRangeLast
    cases om with
    | stream => exact .modify (hopen _ _ _) (.finish rfl _ _)
    | oneshot => exact .bind hwindow fun _ => .modify (hopen _ _ _) (.finish rfl _ _)
    | wrap => exact .bind hwindow fun _ => .modify (hopen _ _ _) (.finish rfl _ _)

/-! The rules of DEC_RUN's pseudocode (46_decoder.md R445). -/

/-- A run of DEC_RUN within its bounds, the decoder having `P`. -/
abbrev Decoding (s₀ : State) (P : Dec → Prop) : Run → Prop := Running .decRun s₀ P

/-- `m`, in a run of DEC_RUN begun in `s₀`, takes a decoder with `P` to one with `P'`, or ends the run legally. -/
abbrev Decodes (s₀ : State) {α : Type} (P : Dec → Prop) (m : RunM α) (P' : Dec → Prop) : Prop :=
  Triple (Decoding s₀ P) m (fun _ => Decoding s₀ P') (Stopped .decRun s₀)

/-- A property that does not speak of the BitBuffer, so that taking input keeps it. -/
def BitsFree (P : Dec → Prop) : Prop := ∀ (d : Dec) (b : Word) (n : Nat), P d → P { d with bitbuf := b, nbits := n }

/-- The decoder's stream has not failed. -/
def Live (d : Dec) : Prop := d.phase ≠ .failed

/-- The decoder's stream has not failed, and no code lengths are being read. -/
def Elsewhere (d : Dec) : Prop := d.phase ≠ .failed ∧ d.phase ≠ .dynLens

/-- Code lengths are being read, of which `t` are wanted (46_decoder.md R466). -/
def InLens (t : Nat) (d : Dec) : Prop := d.phase = .dynLens ∧ d.hlit + d.hdist = t

/-- Code lengths are being read, and one is still wanted. -/
def ShortLens (t : Nat) (d : Dec) : Prop := InLens t d ∧ d.lens.length < t

theorem Elsewhere.bitsFree : BitsFree Elsewhere := fun _ _ _ h => h

theorem InLens.bitsFree {t : Nat} : BitsFree (InLens t) := fun _ _ _ h => h

theorem ShortLens.bitsFree {t : Nat} : BitsFree (ShortLens t) := fun _ _ _ h => h

section
variable {s₀ : State} {P P' : Dec → Prop} {β : Type} {Q : β → Run → Prop}

theorem Triple.narrow {m : RunM β} (hm : Triple (Decoding s₀ P') m Q (Stopped .decRun s₀)) (h : ∀ d, P d → P' d) :
    Triple (Decoding s₀ P) m Q (Stopped .decRun s₀) :=
  hm.weaken (fun _ hr => ⟨hr.1, h _ hr.2⟩) (fun _ _ hr => hr) fun _ _ hr => hr

/-- What follows a read of the decoder's state knows the state read. -/
theorem Triple.getDec {k : Dec → RunM β} (hk : ∀ d, P d → Triple (Decoding s₀ (· = d)) (k d) Q (Stopped .decRun s₀)) :
    Triple (Decoding s₀ P) (Machine.getDec >>= k) Q (Stopped .decRun s₀) :=
  fun r hr => hk r.s.dec hr.2 r ⟨hr.1, rfl⟩

/-- A read of the decoder's state of which what follows need not know that it is still the state. -/
theorem Triple.getAnyDec {k : Dec → RunM β} (hk : ∀ d, Triple (Decoding s₀ P) (k d) Q (Stopped .decRun s₀)) :
    Triple (Decoding s₀ P) (Machine.getDec >>= k) Q (Stopped .decRun s₀) :=
  .getDec fun d hd => (hk d).narrow fun _ h => h ▸ hd

theorem Triple.decModify {f : Dec → Dec} (hf : ∀ d, P d → (SoundDec d → SoundDec (f d)) ∧ P' (f d)) :
    Decodes s₀ P (Machine.decModify f) P' :=
  fun r hr => ⟨hr.1.setDec family_decRun (hf r.s.dec hr.2).1, (hf r.s.dec hr.2).2⟩

theorem Triple.decGo {p : DecPhase} (hp : p ≠ .failed)
    (hP : ∀ d, P d → d.phase ≠ .failed ∧ (p = .dynLens → d.lens.length ≤ d.hlit + d.hdist)) :
    Decodes s₀ P (Machine.decGo p) Live :=
  .decModify fun d hd => ⟨fun h => h.setPhase (hP d hd).1 hp (hP d hd).2, hp⟩

/-- A change to a state whose work does not read code lengths. -/
theorem Triple.decGoElsewhere {p : DecPhase} (hp : p ≠ .failed ∧ p ≠ .dynLens) :
    Decodes s₀ Elsewhere (Machine.decGo p) Live :=
  .decGo hp.1 fun _ hd => ⟨hd.1, fun h => absurd h hp.2⟩

theorem Triple.decFail {c : Cause} (hc : c.code = .corruptData) :
    Triple (Decoding s₀ P) (Machine.decFail c : RunM β) Q (Stopped .decRun s₀) :=
  fun _ hr => ⟨hr.1, .inr hc⟩

theorem Triple.failIf {bad : Bool} {c : Cause} {k : Unit → RunM β} (hc : c.code = .corruptData)
    (hk : bad = false → Triple (Decoding s₀ P) (k ()) Q (Stopped .decRun s₀)) :
    Triple (Decoding s₀ P) (Machine.failIf bad c >>= k) Q (Stopped .decRun s₀) := by
  cases bad
  · exact hk rfl
  · exact fun _ hr => ⟨hr.1, .inr hc⟩

/-! Bit input. -/

theorem Triple.pull (hP : BitsFree P) (i n : Nat) : Decodes s₀ P (Machine.pull i n) P :=
  .get fun _ => .bind (.doneIf rfl) fun _ => .bind .busRead fun _ _ hr =>
    ⟨hr.1.setDec family_decRun fun hd => hd, hP _ _ _ hr.2⟩

theorem Triple.needUpTo (hP : BitsFree P) (i n k left : Nat) : Decodes s₀ P (Machine.needUpTo i n k left) P := by
  induction left with
  | zero =>
    refine .getAnyDec fun d => ?_
    split
    · exact .pull hP i n
    · exact .pure fun _ hr => hr
  | succ left ih =>
    refine .getAnyDec fun d => ?_
    split
    · exact .bind (.pull hP i n) fun _ => ih
    · exact .pure fun _ hr => hr

theorem Triple.decDrop (hP : BitsFree P) (k : Dec → Nat) : Decodes s₀ P (Machine.decModify fun d => d.drop (k d)) P :=
  .decModify fun _ hd => ⟨fun h => h, hP _ _ _ hd⟩

theorem Triple.take (hP : BitsFree P) (i n k : Nat) : Decodes s₀ P (Machine.take i n k) P :=
  .bind (.get fun _ => .needUpTo hP i n k _) fun _ => .getAnyDec fun _ => .bind (.decDrop hP _) fun _ =>
    .pure fun _ hr => hr

theorem Triple.symUpTo (hP : BitsFree P) (i n : Nat) (ws : List CodeWord) (left : Nat) :
    Decodes s₀ P (Machine.symUpTo i n ws left) P := by
  induction left with
  | zero =>
    refine .getAnyDec fun d => ?_
    split
    · exact .bind (.decDrop hP _) fun _ => .pure fun _ hr => hr
    · exact .decFail rfl
    · exact fun _ hr => ⟨hr.1, rfl⟩
  | succ left ih =>
    refine .getAnyDec fun d => ?_
    split
    · exact .bind (.decDrop hP _) fun _ => .pure fun _ hr => hr
    · exact .decFail rfl
    · exact .bind (.pull hP i n) fun _ => ih

theorem Triple.sym (hP : BitsFree P) (i n : Nat) (t : Fin 4) : Decodes s₀ P (Machine.sym i n t) P :=
  .get fun _ => .symUpTo hP i n _ _

/-! Output. -/

theorem Triple.checkRoom (m : Nat) : Decodes s₀ P (Machine.checkRoom m) P := .get fun _ => .doneIf rfl

theorem Triple.putByte (o : Nat) (b : Byte) : Decodes s₀ Elsewhere (Machine.putByte o b) Elsewhere :=
  .get fun _ => .bind .busWrite fun _ _ hr => ⟨hr.1.decCount b, hr.2⟩

theorem Triple.histByte (dist : Nat) : Decodes s₀ P (Machine.histByte dist) P := by
  refine .get fun r => ?_
  split
  · exact .pure fun _ hr => hr
  · exact .busRead
  · exact .busRead

theorem Triple.afterBlock : Decodes s₀ Elsewhere Machine.afterBlock Live := by
  refine .getAnyDec fun d => ?_
  split
  · exact .bind (.decDrop Elsewhere.bitsFree _) fun _ => .decGoElsewhere (by cases d.zlib <;> decide)
  · exact .decGoElsewhere (by decide)

/-! The tables. -/

theorem Triple.runSetSlot (k : Fin 4) {v : Slot} (hv : ∀ d, P d → SoundDec d → v.shaped = true) :
    Decodes s₀ P (Machine.runSetSlot k v) P :=
  fun r hr => ⟨hr.1.setSlot k fun hs => hv r.s.dec hr.2 hs.dec, hr.2⟩

theorem Triple.buildSlot (k : Fin 4) {len : List Nat} {c : Cause} (hc : c.code = .corruptData)
    (hlen : ∀ d, P d → SoundDec d → len.length ≤ 288) : Decodes s₀ P (Machine.buildSlot k len c) P := by
  refine .bind (.runSetSlot k fun d hd hs => shaped_builtSlot (hlen d hd hs)) fun _ => ?_
  split
  · exact .pure fun _ hr => hr
  · exact .decFail hc

/-! The work of each state. -/

theorem Triple.workZhdr (i n : Nat) : Decodes s₀ Elsewhere (Machine.workZhdr i n) Live :=
  .bind (.take Elsewhere.bitsFree i n 16) fun _ => .getAnyDec fun _ => .failIf rfl fun _ => .failIf rfl fun _ =>
    .decGoElsewhere (by decide)

theorem fixedLit_length : fixedLit.length = 288 := by
  rw [fixedLit]
  simp only [List.length_append, List.length_replicate]

theorem Triple.workBhdr (i n : Nat) : Decodes s₀ Elsewhere (Machine.workBhdr i n) Live := by
  refine .bind (.take Elsewhere.bitsFree i n 3) fun _ => .bind (.decModify (P' := Elsewhere) fun _ hd => ⟨fun h => h, hd⟩)
    fun _ => ?_
  split
  · exact .bind (.decDrop Elsewhere.bitsFree _) fun _ => .decGoElsewhere (by decide)
  · split
    · exact .bind (.runSetSlot 0 fun _ _ _ => shaped_builtSlot fixedLit_length.le) fun _ =>
        .bind (.runSetSlot 1 fun _ _ _ => shaped_builtSlot (by decide)) fun _ => .decGoElsewhere (by decide)
    · split
      · exact .decGoElsewhere (by decide)
      · exact .decFail rfl

theorem Triple.workStoredLen (i n : Nat) : Decodes s₀ Elsewhere (Machine.workStoredLen i n) Live :=
  .bind (.take Elsewhere.bitsFree i n 32) fun _ => .failIf rfl fun _ =>
    .bind (.decModify (P' := Elsewhere) fun _ hd => ⟨fun h => h, hd⟩) fun _ => .decGoElsewhere (by decide)

theorem Triple.storedCopy (i n o m k : Nat) : Decodes s₀ Elsewhere (Machine.storedCopy i n o m k) Elsewhere := by
  induction k with
  | zero => exact .pure fun _ hr => hr
  | succ k ih =>
    exact .bind (.checkRoom m) fun _ => .bind (.take Elsewhere.bitsFree i n 8) fun _ => .bind (.putByte o _) fun _ =>
      .bind (.decModify fun _ hd => ⟨fun h => h, hd⟩) fun _ => ih

theorem Triple.workStoredCopy (i n o m : Nat) : Decodes s₀ Elsewhere (Machine.workStoredCopy i n o m) Live :=
  .getAnyDec fun _ => .bind (.storedCopy i n o m _) fun _ => .afterBlock

/-- The counts read fit their fields (46_decoder.md R462). -/
theorem SoundDec.setCounts {d : Dec} (h : SoundDec d) (hd : Elsewhere d) (v hclen : Nat) :
    SoundDec { d with hlit := v % 32 + 257, hdist := v / 32 % 32 + 1, hclen := hclen } := by
  obtain ⟨hrecorded, hhist, hopos, -, -, hlength, -⟩ := h
  exact ⟨hrecorded, hhist, hopos, by dsimp only; omega, by dsimp only; omega, hlength, fun hp => absurd hp hd.2⟩

theorem SoundDec.setClen {d : Dec} (h : SoundDec d) {clen : List Nat} (hlength : clen.length = 19) (ci : Nat) :
    SoundDec { d with clen := clen, ci := ci } := by
  obtain ⟨hrecorded, hhist, hopos, hlit, hdist, -, hlens⟩ := h
  exact ⟨hrecorded, hhist, hopos, hlit, hdist, hlength, hlens⟩

theorem SoundDec.clen_length {d : Dec} (h : SoundDec d) : d.clen.length = 19 := by
  obtain ⟨-, -, -, -, -, hlength, -⟩ := h
  exact hlength

theorem Triple.workDynCounts (i n : Nat) : Decodes s₀ Elsewhere (Machine.workDynCounts i n) Live :=
  .bind (.take Elsewhere.bitsFree i n 14) fun v =>
    .bind (.decModify (P' := Elsewhere) fun _ hd => ⟨fun h => h.setCounts hd v _, hd⟩) fun _ => .failIf rfl fun _ =>
    .bind (.decModify (P' := Elsewhere) fun _ hd => ⟨fun h => h.setClen List.length_replicate 0, hd⟩) fun _ =>
    .decGoElsewhere (by decide)

theorem Triple.clenLoop (i n k : Nat) : Decodes s₀ Elsewhere (Machine.clenLoop i n k) Elsewhere := by
  induction k with
  | zero => exact .pure fun _ hr => hr
  | succ k ih =>
    refine .bind (.take Elsewhere.bitsFree i n 3) fun v =>
      .bind (.decModify (P' := Elsewhere) fun d hd => ⟨fun h => ?_, hd⟩) fun _ => ih
    exact h.setClen (List.length_set.trans h.clen_length) _

/-- The state left for the code lengths has read none of them. -/
theorem Triple.workDynClen (i n : Nat) : Decodes s₀ Elsewhere (Machine.workDynClen i n) Live := by
  refine .getAnyDec fun d => .bind (.clenLoop i n _) fun _ => .getDec fun d hd => .bind (.buildSlot 2 rfl ?_) fun _ =>
    .bind (.decModify (P' := fun d => Elsewhere d ∧ d.lens = []) ?_) fun _ => .decGo (by decide) ?_
  · rintro d rfl h
    exact h.clen_length.trans_le (by decide)
  · rintro d rfl
    refine ⟨fun h => ?_, hd, rfl⟩
    obtain ⟨hrecorded, hhist, hopos, hlit, hdist, hclen, -⟩ := h
    exact ⟨hrecorded, hhist, hopos, hlit, hdist, hclen, fun hp => absurd hp hd.2⟩
  · intro d ⟨hd, hnil⟩
    exact ⟨hd.1, fun _ => by simp [hnil]⟩

/-! The code lengths (46_decoder.md R466, R468). -/

/-- Lengths that fit the number wanted may be appended. -/
theorem SoundDec.appendLens {d : Dec} (h : SoundDec d) {t : Nat} (hd : InLens t d) {more : List Nat}
    (hfit : d.lens.length + more.length ≤ t) : SoundDec { d with lens := d.lens ++ more } := by
  obtain ⟨hrecorded, hhist, hopos, hlit, hdist, hclen, -⟩ := h
  refine ⟨hrecorded, hhist, hopos, hlit, hdist, hclen, fun _ => ?_⟩
  rw [List.length_append, hd.2]
  exact hfit

/-- Once it has not failed, a repeat appends lengths that fit. -/
theorem Triple.appendRepeat {t r v : Nat} {bad : Bool} {d : Dec} (hd : InLens t d)
    (hfit : bad = false → d.lens.length + r ≤ t) : Decodes s₀ (· = d) (Machine.appendRepeat bad r v) (InLens t) := by
  refine .bind (.decModify (P' := fun e => InLens t e ∧ e.lens = d.lens) ?_) fun _ => .failIf rfl fun hbad =>
    .decModify fun e he => ?_
  · rintro e rfl
    exact ⟨fun h => h, hd, rfl⟩
  · exact ⟨fun h => h.appendLens he.1 (by simpa [he.2] using hfit hbad), he.1⟩

theorem Triple.repeatLens (i n t s : Nat) : Decodes s₀ (InLens t) (Machine.repeatLens i n t s) (InLens t) := by
  unfold Machine.repeatLens
  split
  · refine .bind (.take InLens.bitsFree i n 2) fun v => .getDec fun d hd => .appendRepeat hd fun hbad => ?_
    simp only [Bool.or_eq_false_iff, decide_eq_false_iff_not] at hbad
    omega
  · split
    · refine .bind (.take InLens.bitsFree i n 3) fun v => .getDec fun d hd => .appendRepeat hd fun hbad => ?_
      simpa using hbad
    · split
      · refine .bind (.take InLens.bitsFree i n 7) fun v => .getDec fun d hd => .appendRepeat hd fun hbad => ?_
        simpa using hbad
      · exact .decModify fun _ hd => ⟨fun h => h, hd⟩

theorem Triple.lensItem (i n t : Nat) : Decodes s₀ (ShortLens t) (Machine.lensItem i n t) (InLens t) := by
  refine .getAnyDec fun d => ?_
  split
  · exact (Triple.repeatLens i n t _).narrow fun _ hd => hd.1
  · refine .bind (.sym ShortLens.bitsFree i n 2) fun s => ?_
    split
    · exact .decModify fun _ hd => ⟨fun h => h.appendLens hd.1 hd.2, hd.1⟩
    · exact .bind (.decModify fun _ hd => ⟨fun h => h, hd.1⟩) fun _ => .repeatLens i n t s

theorem Triple.lensLoop (i n t k : Nat) : Decodes s₀ (InLens t) (Machine.lensLoop i n t k) (InLens t) := by
  induction k with
  | zero => exact .pure fun _ hr => hr
  | succ k ih =>
    refine .getDec fun d hd => ?_
    split
    · next hshort => exact .bind ((Triple.lensItem i n t).narrow fun _ h => h ▸ ⟨hd, hshort⟩) fun _ => ih
    · exact .pure fun _ hr => ⟨hr.1, hr.2 ▸ hd⟩

/-- The lengths read fit the counts, so that each table's lengths fit a slot. -/
theorem Triple.lensDone (t : Nat) : Decodes s₀ (InLens t) Machine.lensDone Live := by
  refine .getDec fun d hd => .bind (.buildSlot 0 rfl ?_) fun _ => .bind (.buildSlot 1 rfl ?_) fun _ => .failIf rfl fun _ =>
    .decGo (by decide) ?_
  · rintro d rfl ⟨-, -, -, hlit, -⟩
    exact (List.length_take_le _ _).trans hlit
  · rintro d rfl ⟨-, -, -, hlit, hdist, -, hlens⟩
    have hfit := hlens hd.1
    rw [List.length_drop]
    omega
  · rintro d rfl
    exact ⟨by simp [hd.1], nofun⟩

theorem Triple.workDynLens (i n : Nat) : Decodes s₀ (fun d => d.phase = .dynLens) (Machine.workDynLens i n) Live := by
  refine .getDec fun d hd => .bind (Triple.narrow (P' := InLens (d.hlit + d.hdist)) (.lensLoop i n _ _) ?_) fun _ =>
    .lensDone _
  rintro d rfl
  exact ⟨hd, rfl⟩

/-! Symbols and back-references. -/

theorem SoundDec.setLsym {d : Dec} (h : SoundDec d) (lsym : Nat) : SoundDec { d with lsym := lsym } := h

theorem Triple.workDataSym (i n : Nat) : Decodes s₀ Elsewhere (Machine.workDataSym i n) Live := by
  refine .bind (.sym Elsewhere.bitsFree i n 0) fun _ => ?_
  split
  · exact .bind (.decModify (P' := Elsewhere) fun _ hd => ⟨fun h => h, hd⟩) fun _ => .decGoElsewhere (by decide)
  · split
    · exact .afterBlock
    · split
      · exact .bind (.decModify (P' := Elsewhere) fun _ hd => ⟨fun h => h.setLsym _, hd.1, hd.2⟩) fun _ =>
          .decGoElsewhere (by decide)
      · exact .decFail rfl

theorem Triple.workLitOut (o m : Nat) : Decodes s₀ Elsewhere (Machine.workLitOut o m) Live :=
  .bind (.checkRoom m) fun _ => .getAnyDec fun _ => .bind (.putByte o _) fun _ => .decGoElsewhere (by decide)

theorem Triple.workLenExtra (i n : Nat) : Decodes s₀ Elsewhere (Machine.workLenExtra i n) Live :=
  .getAnyDec fun _ => .bind (.take Elsewhere.bitsFree i n _) fun _ =>
    .bind (.decModify (P' := Elsewhere) fun _ hd => ⟨fun h => h, hd⟩) fun _ => .decGoElsewhere (by decide)

theorem Triple.workDistSym (i n : Nat) : Decodes s₀ Elsewhere (Machine.workDistSym i n) Live :=
  .bind (.sym Elsewhere.bitsFree i n 1) fun _ => .failIf rfl fun _ =>
    .bind (.decModify (P' := Elsewhere) fun _ hd => ⟨fun h => h, hd⟩) fun _ => .decGoElsewhere (by decide)

theorem Triple.workDistExtra (i n : Nat) : Decodes s₀ Elsewhere (Machine.workDistExtra i n) Live :=
  .getAnyDec fun _ => .bind (.take Elsewhere.bitsFree i n _) fun _ =>
    .bind (.decModify (P' := Elsewhere) fun _ hd => ⟨fun h => h, hd⟩) fun _ => .getAnyDec fun _ => .failIf rfl fun _ =>
    .decGoElsewhere (by decide)

theorem Triple.copyLoop (o m k : Nat) : Decodes s₀ Elsewhere (Machine.copyLoop o m k) Elsewhere := by
  induction k with
  | zero => exact .pure fun _ hr => hr
  | succ k ih =>
    exact .bind (.checkRoom m) fun _ => .getAnyDec fun _ => .bind (.histByte _) fun _ => .bind (.putByte o _) fun _ =>
      .bind (.decModify fun _ hd => ⟨fun h => h, hd⟩) fun _ => ih

theorem Triple.workCopy (o m : Nat) : Decodes s₀ Elsewhere (Machine.workCopy o m) Live :=
  .getAnyDec fun _ => .bind (.copyLoop o m _) fun _ => .decGoElsewhere (by decide)

theorem Triple.workZtrailer (i n : Nat) : Decodes s₀ Elsewhere (Machine.workZtrailer i n) Live :=
  .bind (.take Elsewhere.bitsFree i n 32) fun _ => .getAnyDec fun _ => .failIf rfl fun _ => .decGoElsewhere (by decide)

/-! The loop, and DEC_RUN. -/

/-- The work of a state other than that of the code lengths. -/
theorem Triple.decWorkElsewhere (i n o m : Nat) {p : DecPhase} (hp : p ≠ .dynLens) :
    Decodes s₀ Elsewhere (Machine.decWork i n o m p) Live := by
  cases p with
  | zhdr => exact .workZhdr i n
  | bhdr => exact .workBhdr i n
  | storedLen => exact .workStoredLen i n
  | storedCopy => exact .workStoredCopy i n o m
  | dynCounts => exact .workDynCounts i n
  | dynClen => exact .workDynClen i n
  | dynLens => exact absurd rfl hp
  | dataSym => exact .workDataSym i n
  | litOut => exact .workLitOut o m
  | lenExtra => exact .workLenExtra i n
  | distSym => exact .workDistSym i n
  | distExtra => exact .workDistExtra i n
  | copy => exact .workCopy o m
  | ztrailer => exact .workZtrailer i n
  | idle => exact .pure fun _ hr => ⟨hr.1, hr.2.1⟩
  | done => exact .pure fun _ hr => ⟨hr.1, hr.2.1⟩
  | failed => exact .pure fun _ hr => ⟨hr.1, hr.2.1⟩

theorem Triple.decWork (i n o m : Nat) {d : Dec} (hd : Live d) :
    Decodes s₀ (· = d) (Machine.decWork i n o m d.phase) Live := by
  by_cases hp : d.phase = .dynLens
  · rw [hp]
    exact (Triple.workDynLens i n).narrow fun _ h => h ▸ hp
  · exact (Triple.decWorkElsewhere i n o m hp).narrow fun _ h => h ▸ ⟨hd, hp⟩

theorem Triple.decLoop (i n o m fuel : Nat) : Decodes s₀ Live (Machine.decLoop i n o m fuel) Live := by
  induction fuel with
  | zero => exact .pure fun _ hr => hr
  | succ fuel ih =>
    refine .getDec fun d hd => .bind (.decWork i n o m hd) fun _ => .getAnyDec fun _ => ?_
    split
    · exact .pure fun _ hr => hr
    · exact ih

/-- The failure record of a legal end agrees with FAILED (46_decoder.md R446). -/
theorem soundDec_decFailed {s : State} {c : Cause} {info : Nat} (hc : c.code = .busError ∨ c.code = .corruptData)
    (h : SoundDec s.dec) : SoundDec (s.decFailed c info).dec := by
  obtain ⟨-, hhist, hopos, hlit, hdist, hclen, -⟩ := h
  refine ⟨?_, hhist, hopos, hlit, hdist, hclen, nofun⟩
  rcases hc with hc | hc <;> simp [Dec.recorded, hc, Code.toByte, cause_num_ne_zero]

/-- DEC_RUN's end, if it has one. -/
def FinishedSome (s₀ : State) (f : Option Finish) (s : State) : Prop := ∀ g ∈ f, Finished .decRun s₀ g s

theorem Triple.decEnd (i n o m : Nat) :
    Triple (fun s => Within .decRun s₀ s ∧ Live s.dec)
      (fun t => Machine.decEnd (Machine.decBody i n o m { s := t, c := 0, w := 0 }))
      (FinishedSome s₀) (Failed s₀ (Within .decRun s₀)) := by
  intro t ht
  have hbody : Decodes s₀ Live (Machine.decBody i n o m) Live := .get fun _ => .decLoop i n o m _
  have hrun := hbody { s := t, c := 0, w := 0 } ht
  have htally : ∀ r : Run, Within .decRun s₀ r.s → Within .decRun s₀ r.decTally :=
    fun r hr => hr.setDec family_decRun fun hd => hd
  dsimp only
  split at hrun
  · next u r he =>
    rw [he]
    unfold Machine.decEnd
    dsimp only
    by_cases hdone : r.s.dec.phase = .done
    · rw [if_pos hdone]
      rintro g ⟨⟩
      exact ⟨htally r hrun.1, rfl⟩
    · rw [if_neg hdone]
      exact nofun
  · next e r he =>
    rw [he]
    cases e with
    | done code =>
      rintro g ⟨⟩
      exact ⟨htally r hrun.1, hrun.2⟩
    | error c info =>
      exact ⟨(htally r hrun.1).setDec family_decRun (soundDec_decFailed hrun.2), fun _ => legalRaise_of_cause c _ _ _⟩

end

/-- DEC_RUN's checks change nothing, so that the run begins in the decoder's state they saw. -/
theorem Triple.decOpen {s : State} (d : Dec) (i n o m : Nat) :
    Triple (fun t => Within .decRun s t ∧ Live t.dec) (Machine.decOpen d i n o m) (FinishedSome s)
      (Failed s (Within .decRun s)) := by
  have hfailed : ∀ e t, Failed s (fun t => Within .decRun s t ∧ Live t.dec) e t → Failed s (Within .decRun s) e t :=
    fun _ _ h => ⟨h.1.1, h.2⟩
  have houtput : Triple (fun t => Within .decRun s t ∧ Live t.dec) (Machine.checkOutput d o m)
      (fun _ t => Within .decRun s t ∧ Live t.dec) (Failed s fun t => Within .decRun s t ∧ Live t.dec) := by
    unfold Machine.checkOutput
    split
    · exact .checkRangeLast
    · exact .pure fun _ ht => ht
    · exact .pure fun _ ht => ht
  exact .bind (Triple.checkRangeLast.loosen hfailed) fun _ => .bind (houtput.loosen hfailed) fun _ =>
    .bind (Triple.denyLast.loosen hfailed) fun _ => .decEnd i n o m

/-- A failed stream raises its record again, a legal one by the invariant (46_decoder.md R446). -/
theorem legalRaise_of_failed {d : Dec} (h : d.recorded = true) (hp : d.phase = .failed) :
    LegalRaise { code := d.fcode, cause := d.fcause, info := d.finfo, r0 := 0#32, r1 := 0#32 } := by
  simp only [Dec.recorded, hp, if_true, Bool.and_eq_true, Bool.or_eq_true, beq_iff_eq, bne_iff_ne] at h
  refine ⟨?_, h.2⟩
  rcases h.1 with hcode | hcode <;> simp [hcode, Code.all, Code.toByte]

theorem Triple.decRun (s : State) :
    Triple (· = s) (Machine.decRun s) (FinishedSome s) (Failed s (Within .decRun s)) := by
  have hopen : Live s.dec → Triple (· = s)
      (Machine.decOpen s.dec s.args.a0.toNat s.args.a1.toNat s.args.a2.toNat s.args.a3.toNat) (FinishedSome s)
      (Failed s (Within .decRun s)) := fun hlive =>
    (Triple.decOpen s.dec _ _ _ _).weaken (by rintro t rfl; exact ⟨.start, hlive⟩) (fun _ _ h => h) fun _ _ h => h
  unfold Machine.decRun
  split
  · exact (Triple.raise _ _).weaken (by rintro t rfl; exact .start) (fun _ _ h => h) fun _ _ h => h
  · next hp =>
    rintro t rfl
    exact ⟨.start, fun hs => legalRaise_of_failed hs.dec.1 hp⟩
  · rintro t rfl g ⟨⟩
    exact ⟨.start, rfl⟩
  all_goals
    next hp => exact hopen (by simp [Live, hp])

theorem performed_decRun {s t : State} (h : execDecRun s = .next t) : Performed .decRun s t := by
  have hrun := Triple.decRun s s rfl
  unfold execDecRun at h
  split at h
  · next f u he =>
    rw [he] at hrun
    obtain rfl := Host.Outcome.next.inj h
    exact performed_of_finished (hrun f rfl)
  · exact absurd h nofun
  · next e u he =>
    rw [he] at hrun
    obtain rfl := Host.Outcome.next.inj h
    exact performed_of_failed hrun

end Sys2Proof.Proofs
end

section
/-! SUPPORT. What every command leaves unchanged, and the invariant of the machine (40_control.md R214; 20_memory.md
R160). -/

namespace Sys2Proof.Proofs

open Sys2Proof.Machine Sys2Proof.Claims

/-! Every command. -/

/-- A command but RESET changes only what it may, and its completion is a state with the invariant. -/
theorem performed_exec {i : Instr} (hi : i ≠ .reset) {s t : State} (h : exec i s = .next t) : Performed i s t := by
  cases i with
  | nop => exact performed_nop h
  | reset => exact absurd rfl hi
  | crcInit => exact performed_crcInit h
  | crcUpdate => exact performed_crcUpdate h
  | crcByte b => exact performed_crcByte h
  | adlerInit => exact performed_adlerInit h
  | adlerUpdate => exact performed_adlerUpdate h
  | adlerByte b => exact performed_adlerByte h
  | hufLengths maxlen => exact performed_hufLengths h
  | hufCodes reverse => exact performed_hufCodes h
  | hufDtable slot => exact performed_hufDtable h
  | hufDecode slot => exact performed_hufDecode h
  | hufPeek slot tree index => exact performed_hufPeek h
  | lzFind reject filter probes => exact performed_lzFind h
  | lzHash fast => exact performed_lzHash h
  | encInit level zlib forceStatic filter crcTap probesOvr => exact performed_encInit h
  | encRun flush => exact performed_encRun h
  | decInit zlib omode crcTap => exact performed_decInit h
  | decRun => exact performed_decRun h
  | zipNameCheck => exact performed_zipNameCheck h
  | zipLhWrite align => exact performed_zipLhWrite h
  | zipCdWrite => exact performed_zipCdWrite h
  | zipEocdWrite => exact performed_zipEocdWrite h
  | zipEocdFind => exact performed_zipEocdFind h
  | zipCdParse => exact performed_zipCdParse h
  | zipLhCheck => exact performed_zipLhCheck h
  | zipNameCmp caseSensitive => exact performed_zipNameCmp h
  | zipVerify => exact performed_zipVerify h

theorem exec_reset (s : State) : exec .reset s = .next (s.resetByCommand.complete 0x00#8 0#8 0#32 0#32 0#32) := rfl

/-- Settles O18: RESET by its own state, every other command by the frame of its pseudocode. -/
theorem commandsWriteOnlyTheirOwnState : Obligations.CommandsWriteOnlyTheirOwnState := by
  intro i s t h
  by_cases hi : i = .reset
  · subst hi
    obtain rfl := Host.Outcome.next.inj (exec_reset s ▸ h)
    exact ⟨rfl, rfl, rfl, rfl, fun hn => absurd rfl hn, fun _ => rfl, fun hn => absurd trivial hn
      , fun hn => absurd trivial hn, fun hn => absurd trivial hn, fun hn => absurd trivial hn, fun hn => absurd trivial hn
      , fun hn => absurd rfl hn, fun hn => absurd rfl hn⟩
  · obtain ⟨hframe, -⟩ := performed_exec hi h
    exact ⟨hframe.irqEn, hframe.plat, hframe.hostq, hframe.busData, fun _ => ⟨hframe.args, hframe.cmd, hframe.ovr⟩
      , hframe.mem, hframe.crc, hframe.adler, hframe.slots, hframe.entry, hframe.ends, fun _ => hframe.enc
      , fun _ => hframe.dec⟩

/-! The invariant of the machine. -/

/-- The reset values are sound, whatever host memory holds. -/
theorem sound_applyReset {s : State} (h : s.mem.wf = true) : Sound s.applyReset where
  mem := h
  ddict := ⟨rfl, fun c hc => by simp [State.applyReset, State.reset] at hc⟩
  slots k := by
    have hempty : s.applyReset.slots.get k = Slot.empty := by fin_cases k <;> rfl
    rw [hempty]
    exact shaped_empty
  enc := ⟨Nat.zero_lt_succ _, Nat.zero_le _, rfl, fun c hc => by simp [State.applyReset, State.reset, Enc.reset] at hc⟩
  dec := ⟨rfl, Nat.zero_le _, fun _ => Nat.zero_lt_succ _, Nat.zero_le _, Nat.zero_le _, rfl, nofun⟩

theorem inv_exec {i : Instr} {s t : State} (hs : Inv s) (h : exec i s = .next t) : Inv t := by
  obtain ⟨hsound, -⟩ := inv_iff.mp hs
  by_cases hi : i = .reset
  · subst hi
    obtain rfl := Host.Outcome.next.inj (exec_reset s ▸ h)
    have hreset : Sound s.resetByCommand := { sound_applyReset hsound.mem with }
    exact hreset.complete (by decide) (by decide) _ _ _
  · exact (performed_exec hi h).2 hsound

theorem inv_blockTurn {s t : State} (hs : Inv s) (h : blockTurn s = .next t) : Inv t := by
  unfold blockTurn at h
  split at h
  · split at h
    · exact inv_exec hs h
    · next e _ =>
      obtain rfl := Host.Outcome.next.inj h
      exact (inv_iff.mp hs).1.complete (toByte_mem_all _) (fun _ => cause_num_ne_zero _) _ _ _
  · obtain rfl := Host.Outcome.next.inj h
    exact hs

/-- A change of STATUS that keeps CODE and lets neither BUSY nor CMPL join the other. -/
theorem inv_setStatus {s : State} (h : Inv s) {st : Status} (hcode : st.code = s.status.code)
    (hflags : ¬(st.busy = true ∧ st.cmpl = true)) : Inv { s with status := st } := by
  obtain ⟨hsound, -, hrecord⟩ := inv_iff.mp h
  refine inv_iff.mpr ⟨{ hsound with }, hflags, ?_⟩
  rw [State.recorded] at hrecord ⊢
  rwa [hcode]

/-- A register write changes what the invariant speaks of only at CMD and STATUS (10_state.md R43, R44). -/
theorem inv_regWrite {s : State} (h : Inv s) (off : Nat) (v : Word) : Inv (s.regWrite off v) := by
  have hlaunch : Inv (s.launch v) :=
    { inv_setStatus h (st := { s.status with busy := true, cmpl := false }) rfl (by simp) with }
  have hclear : Inv { s with status := s.status.clear v } :=
    inv_setStatus h rfl fun ⟨hbusy, hcmpl⟩ => h.flags ⟨hbusy, (Bool.and_eq_true_iff.mp hcmpl).1⟩
  unfold State.regWrite
  split
  · exact hlaunch
  · exact hclear
  all_goals exact { h with }

theorem inv_hostAct {s : State} (h : Inv s) (ev : HostEvent) : Inv (s.hostAct ev) := by
  cases ev with
  | write addr size v =>
    simp only [State.hostAct, State.busWrite]
    split
    · exact h
    · split
      · exact inv_setStatus h rfl h.flags
      · exact inv_regWrite h _ v
  | read addr size => exact { h with }
  | store a b => exact { h with mem := Memory.wf_write b h.mem a.isLt }
  | rst => exact inv_iff.mpr ⟨sound_applyReset h.mem, nofun, rfl⟩
  | block => exact h

/-- Settles O19: each agent's turn keeps the invariant. -/
theorem stepKeepsTheInvariant : Obligations.StepKeepsTheInvariant := by
  intro s t hs h
  have hrest : ∀ rest, Inv { s with hostq := rest } := fun rest => { hs with }
  unfold step at h
  split at h
  · exact inv_blockTurn hs h
  · exact inv_blockTurn (hrest _) h
  · obtain rfl := Host.Outcome.next.inj h
    exact inv_hostAct (hrest _) _

end Sys2Proof.Proofs
end

section
/-! SUPPORT. Accesses of the register window, and the host's steps that make them (10_state.md R40, R45; 20_memory.md R150;
log 3). -/

namespace Sys2Proof.Proofs

open Sys2Proof.Machine Sys2Proof.Claims

/-- The block decodes exactly the word accesses at a register's offset. -/
theorem windowOffset_eq_some_iff {s : State} {addr size off : Nat} :
    s.windowOffset addr size = some off ↔ atRegister s addr size off := by
  unfold State.windowOffset atRegister
  split
  · rw [Option.some.injEq]
    omega
  · refine iff_of_false nofun ?_
    omega

theorem windowOffset_eq_none {s : State} {addr size : Nat} (h : ∀ off, ¬ atRegister s addr size off) :
    s.windowOffset addr size = none :=
  Option.eq_none_iff_forall_ne_some.mpr fun off he => h off (windowOffset_eq_some_iff.mp he)

section
variable {s : State} {addr size off : Nat} {v : Word} {rest : List HostEvent}

theorem busWrite_idle (hr : atRegister s addr size off) (hb : s.status.busy = false) :
    s.busWrite addr size v = s.regWrite off v := by
  simp [State.busWrite, windowOffset_eq_some_iff.mpr hr, hb]

theorem busWrite_busy (hr : atRegister s addr size off) (hb : s.status.busy = true) :
    s.busWrite addr size v = { s with status := { s.status with ovr := true } } := by
  simp [State.busWrite, windowOffset_eq_some_iff.mpr hr, hb]

theorem busRead_register (hr : atRegister s addr size off) : s.busRead addr size = s.regRead off := by
  simp [State.busRead, windowOffset_eq_some_iff.mpr hr]

/-- The step that takes the host's write from the queue. -/
theorem step_write (hq : s.hostq = .write addr size v :: rest) :
    step s = .next ({ s with hostq := rest }.busWrite addr size v) := by
  unfold step
  rw [hq]
  rfl

/-- The host's word write of a register while BUSY = 0 is a step that does the register's write (log 3). -/
theorem step_write_idle (hq : s.hostq = .write addr size v :: rest) (hr : atRegister s addr size off)
    (hb : s.status.busy = false) : step s = .next ({ s with hostq := rest }.regWrite off v) :=
  (step_write hq).trans (congrArg _ (busWrite_idle (s := { s with hostq := rest }) hr hb))

/-- The host's word write of a register while BUSY = 1 is a step that sets OVR (log 3). -/
theorem step_write_busy (hq : s.hostq = .write addr size v :: rest) (hr : atRegister s addr size off)
    (hb : s.status.busy = true) : step s = .next { s with hostq := rest, status := { s.status with ovr := true } } :=
  (step_write hq).trans (congrArg _ (busWrite_busy (s := { s with hostq := rest }) hr hb))

/-- The step that takes the host's read from the queue. -/
theorem step_read (hq : s.hostq = .read addr size :: rest) :
    step s = .next { s with hostq := rest, busData := s.busRead addr size } := by
  unfold step
  rw [hq]
  rfl

end

end Sys2Proof.Proofs
end

section
/-! SUPPORT. What a write to a register leaves and what a read returns (10_state.md R40 to R51). -/

namespace Sys2Proof.Proofs

open Sys2Proof.Machine Sys2Proof.Claims

theorem setWidth_16_32 (v : Word) : (v.setWidth 16).setWidth 32 = v &&& 0x0000FFFF#32 := by
  ext i hi
  interval_cases i <;> simp

theorem bit_setWidth_32 (v : Word) : (bit (v.getLsbD 0)).setWidth 32 = v &&& 0x00000001#32 := by
  ext i hi
  interval_cases i <;> simp [bit]

theorem regRead_regWrite_full {s : State} {v : Word} {off : Nat} (h : off ∈ fullRegisters) :
    (s.regWrite off v).regRead off = v := by
  fin_cases h <;> rfl

theorem regRead_regWrite_half {s : State} {v : Word} {off : Nat} (h : off ∈ halfRegisters) :
    (s.regWrite off v).regRead off = v &&& 0x0000FFFF#32 := by
  rw [← setWidth_16_32]
  fin_cases h <;> rfl

theorem regRead_regWrite_ctrl (s : State) (v : Word) :
    (s.regWrite 0x00C v).regRead 0x00C = v &&& 0x00000001#32 := bit_setWidth_32 v

/-- Settles O10: each register's read after its write, and the host's step as that write. -/
theorem writableRegistersReadBack : Obligations.WritableRegistersReadBack := by
  refine ⟨fun s v => ⟨fun _ => regRead_regWrite_full, fun _ => regRead_regWrite_half, regRead_regWrite_ctrl s v⟩
    , fun s addr size off v rest hb hr hq => ⟨{ s with hostq := rest }.regWrite off v, step_write_idle hq hr hb, rfl
      , regWrite_hostq _ _ _, ?_⟩⟩
  · have hr' : atRegister ({ s with hostq := rest }.regWrite off v) addr size off := by
      rw [atRegister, regWrite_plat]
      exact hr
    rw [busRead_register hr']
    refine ⟨regRead_regWrite_full, regRead_regWrite_half, ?_⟩
    rintro rfl
    exact regRead_regWrite_ctrl _ v

/-- A word as the register at `off` keeps it after a write of `v` at `x`: the new value at `x`, the old one elsewhere. -/
def written {α : Type} (x off : Nat) (new old : α) : α := if x = off then new else old

theorem written_other {α : Type} {x off : Nat} (h : x ≠ off) (new old : α) : written x off new old = old := if_neg h

/-- What a write to an offset other than CMD and STATUS leaves: each register keeps its value but the one at the offset. -/
def registersWritten (s : State) (x : Nat) (v : Word) : State :=
  { s with
    irqEn := written x 0x00C (v.getLsbD 0) s.irqEn
    args :=
      { a0 := written x 0x020 v s.args.a0, a1 := written x 0x024 v s.args.a1, a2 := written x 0x028 v s.args.a2
        a3 := written x 0x02C v s.args.a3, a4 := written x 0x030 v s.args.a4, a5 := written x 0x034 v s.args.a5
        a6 := written x 0x038 v s.args.a6, a7 := written x 0x03C v s.args.a7 }
    crcAcc := written x 0x040 v s.crcAcc
    adlerAcc := written x 0x044 v s.adlerAcc
    zf :=
      { verMade := written x 0x080 (v.setWidth 16) s.zf.verMade, verNeed := written x 0x084 (v.setWidth 16) s.zf.verNeed
        flags := written x 0x088 (v.setWidth 16) s.zf.flags, method := written x 0x08C (v.setWidth 16) s.zf.method
        time := written x 0x090 (v.setWidth 16) s.zf.time, date := written x 0x094 (v.setWidth 16) s.zf.date
        crc := written x 0x098 v s.zf.crc, csize := written x 0x09C v s.zf.csize, usize := written x 0x0A0 v s.zf.usize
        nameLen := written x 0x0A4 (v.setWidth 16) s.zf.nameLen
        extraLen := written x 0x0A8 (v.setWidth 16) s.zf.extraLen
        commentLen := written x 0x0AC (v.setWidth 16) s.zf.commentLen
        diskStart := written x 0x0B0 (v.setWidth 16) s.zf.diskStart
        intAttr := written x 0x0B4 (v.setWidth 16) s.zf.intAttr, extAttr := written x 0x0B8 v s.zf.extAttr
        lhOfs := written x 0x0BC v s.zf.lhOfs }
    ze :=
      { disk := written x 0x0C0 (v.setWidth 16) s.ze.disk, cdDisk := written x 0x0C4 (v.setWidth 16) s.ze.cdDisk
        nentDisk := written x 0x0C8 (v.setWidth 16) s.ze.nentDisk, nent := written x 0x0CC v s.ze.nent
        cdSize := written x 0x0D0 v s.ze.cdSize, cdOfs := written x 0x0D4 v s.ze.cdOfs
        commentLen := written x 0x0D8 (v.setWidth 16) s.ze.commentLen, ofs := written x 0x0DC v s.ze.ofs } }

/-- Each of the 35 registers by its own case; at any other offset no register is `written`. -/
theorem regWrite_eq_registersWritten {s : State} {x : Nat} {v : Word} (hcmd : x ≠ 0x004) (hstatus : x ≠ 0x008) :
    s.regWrite x v = registersWritten s x v := by
  unfold State.regWrite
  split
  · exact absurd rfl hcmd
  · exact absurd rfl hstatus
  case h_38 => simp_all [registersWritten, written]
  all_goals rfl

/-- Settles O11: a register read looks at one register, which a write elsewhere keeps. -/
theorem registersDoNotAlias : Obligations.RegistersDoNotAlias := by
  intro s v x y hcmd hstatus hxy
  rw [regWrite_eq_registersWritten hcmd hstatus]
  unfold State.regRead
  split
  all_goals simp only [registersWritten, written_other hxy]

/-- Settles O12: no offset of the list is one that a write changes, and what is not decoded is ignored. -/
theorem undecodedAccessesDoNothing : Obligations.UndecodedAccessesDoNothing := by
  intro s v
  refine ⟨fun off h => ?_, fun off h => ?_, fun addr size h => ?_⟩
  · fin_cases h <;> rfl
  · unfold State.regRead
    split <;> try rfl
    all_goals omega
  · have hnone := windowOffset_eq_none h
    simp [State.busWrite, State.busRead, hnone]

/-- Settles O7: the three cases are the window's access rules at CMD. -/
theorem writeToCmdLaunches : Obligations.WriteToCmdLaunches := by
  intro s addr size v rest hq hr
  exact ⟨step_write_idle hq hr, step_write_busy hq hr, busRead_register hr⟩

/-- Settles O8: while BUSY = 1 the window's write rule does not look at the offset. -/
theorem writesWhileBusyOnlySetOverrun : Obligations.WritesWhileBusyOnlySetOverrun := by
  intro s addr size off rest hb hr
  refine ⟨fun v hq => step_write_busy hq hr hb, fun hq => ?_⟩
  rw [step_read hq, busRead_register hr]

theorem toNat_append_add {m n : Nat} (x : BitVec m) (y : BitVec n) : (x ++ y).toNat = x.toNat * 2 ^ n + y.toNat := by
  rw [BitVec.toNat_append, ← Nat.shiftLeft_add_eq_or_of_lt y.isLt, Nat.shiftLeft_eq]

/-- STATUS as a number: each field times the weight of its lowest bit. -/
theorem statusWord_toNat (st : Status) : st.word.toNat = st.code.toNat + 2 ^ 8 * st.busy.toNat + 2 ^ 9 * st.cmpl.toNat +
    2 ^ 10 * (isError st.code).toNat + 2 ^ 11 * st.ovr.toNat + 2 ^ 16 * st.lastOpc.toNat := by
  simp only [Status.word, toNat_append_add, bit, BitVec.toNat_ofBool, BitVec.toNat_ofNat]
  omega

/-- Settles O9: a write clears the two bits it names, and the word read is the sum of the fields. -/
theorem statusWriteClearsByOnes : Obligations.StatusWriteClearsByOnes := by
  intro s
  refine ⟨fun v => ?_, ?_⟩
  · have hclear : ∀ a b : Bool, (a && !b) = if b then false else a := by decide
    simp only [State.regWrite, Status.clear, hclear]
  · refine BitVec.eq_of_toNat_eq ?_
    have hlt := s.status.word.isLt
    rw [statusWord_toNat] at hlt
    rw [BitVec.toNat_ofNat]
    exact (statusWord_toNat s.status).trans (Nat.mod_eq_of_lt hlt).symm

end Sys2Proof.Proofs
end

section
/-! SUPPORT. The command word (30_encoding.md R180 to R187): its three fields, the bits that a row's mask leaves free, and a
decoder and an encoder that undo each other. -/

namespace Sys2Proof.Proofs

open Sys2Proof.Machine Sys2Proof.Claims Sys2Proof.Laws

/-! The three fields of a word (R180). -/

theorem packWord_toNat (opc mod imm : Nat) :
    (packWord opc mod imm).toNat = 65536 * (imm % 65536) + 256 * (mod % 256) + opc % 256 := by
  simp only [packWord, toNat_append_add, BitVec.toNat_ofNat]
  omega

theorem opcOf_packWord (opc mod imm : Nat) : opcOf (packWord opc mod imm) = opc % 256 := by
  rw [opcOf, packWord_toNat]
  omega

theorem modOf_packWord (opc mod imm : Nat) : modOf (packWord opc mod imm) = mod % 256 := by
  rw [modOf, packWord_toNat]
  omega

theorem immOf_packWord (opc mod imm : Nat) : immOf (packWord opc mod imm) = imm % 65536 := by
  rw [immOf, packWord_toNat]
  omega

theorem opcOf_lt (w : Word) : opcOf w < 256 := Nat.mod_lt _ (by decide)

theorem modOf_lt (w : Word) : modOf w < 256 := Nat.mod_lt _ (by decide)

theorem immOf_lt (w : Word) : immOf w < 65536 := by
  rw [immOf]
  omega

/-- A word is the word of its three fields. -/
theorem packWord_of_fields {w : Word} {opc mod imm : Nat} (hopc : opc = opcOf w) (hmod : mod = modOf w) (himm : imm = immOf w) :
    packWord opc mod imm = w := by
  refine BitVec.eq_of_toNat_eq ?_
  rw [packWord_toNat, hopc, hmod, himm, opcOf, modOf, immOf]
  omega

/-! An option's bit, in a word and in the number that the encoder builds. -/

theorem getLsbD_eq_testBit_modOf {w : Word} {i : Nat} (hi : 8 ≤ i ∧ i < 16) : w.getLsbD i = (modOf w).testBit (i - 8) := by
  obtain ⟨j, rfl⟩ := Nat.exists_eq_add_of_le hi.1
  have hj : j < 8 := by omega
  rw [modOf, show 256 = 2 ^ 8 from rfl, Nat.testBit_mod_two_pow, Nat.testBit_div_two_pow, ← BitVec.testBit_toNat]
  simp [hj, Nat.add_comm]

theorem getLsbD_eq_testBit_immOf {w : Word} {i : Nat} (hi : 16 ≤ i) : w.getLsbD i = (immOf w).testBit (i - 16) := by
  rw [immOf, show 65536 = 2 ^ 16 from rfl, Nat.testBit_div_two_pow, ← BitVec.testBit_toNat, Nat.sub_add_cancel hi]

theorem toNat_getLsbD_eq_modOf_div {w : Word} {i : Nat} (hi : 8 ≤ i ∧ i < 16) :
    (w.getLsbD i).toNat = modOf w / 2 ^ (i - 8) % 2 := by
  rw [getLsbD_eq_testBit_modOf hi, Nat.toNat_testBit]

theorem toNat_getLsbD_eq_immOf_div {w : Word} {i : Nat} (hi : 16 ≤ i) : (w.getLsbD i).toNat = immOf w / 2 ^ (i - 16) % 2 := by
  rw [getLsbD_eq_testBit_immOf hi, Nat.toNat_testBit]

theorem testBit_bitsOf (bs : List Bool) (k : Nat) : (bitsOf bs).testBit k = bs.getD k false := by
  induction bs generalizing k with
  | nil => simp [bitsOf]
  | cons b bs ih =>
    cases k with
    | zero => cases b <;> simp [bitsOf, Nat.testBit_zero]
    | succ k =>
      have hhalf : (b.toNat + 2 * bitsOf bs) / 2 = bitsOf bs := by
        have := b.toNat_lt
        omega
      rw [bitsOf, Nat.testBit_succ, hhalf, ih, List.getD_cons_succ]

/-! The rows: which bits of MOD and IMM a row's mask leaves free (R184). -/

/-- The low bits of MOD that hold the command's fields. -/
def modBits : Instr → Nat
  | .hufCodes _ | .lzHash _ | .zipNameCmp _ => 1
  | .hufDtable _ | .hufDecode _ | .lzFind _ _ _ => 2
  | .hufPeek _ _ _ | .encRun _ => 3
  | .decInit _ _ _ => 4
  | .crcByte _ | .adlerByte _ | .encInit _ _ _ _ _ _ => 8
  | _ => 0

/-- The low bits of IMM that hold the command's fields. -/
def immBits : Instr → Nat
  | .hufLengths _ => 4
  | .encInit _ _ _ _ _ _ => 5
  | .hufPeek _ _ _ | .lzFind _ _ _ | .zipLhWrite _ => 16
  | _ => 0

/-- A row's mask asks for the whole of OPC and for the bits of MOD and IMM above the free ones. -/
theorem rowMask_eq (i : Instr) :
    rowMask i = BitVec.allOnes 16 <<< immBits i ++ BitVec.allOnes 8 <<< modBits i ++ 0xFF#8 := by
  cases i <;> simp only [rowMask, immBits, modBits] <;> decide

/-- A row's match is its opcode. -/
theorem rowMatch_eq (i : Instr) : rowMatch i = 0#16 ++ 0#8 ++ (rowMatch i).setWidth 8 := by
  cases i <;> rw [rowMatch] <;> decide

theorem bitVec_append_inj {m n : Nat} {x x' : BitVec m} {y y' : BitVec n} (h : x ++ y = x' ++ y') : x = x' ∧ y = y' :=
  ⟨by simpa only [BitVec.extractLsb'_append_eq_left] using congrArg (BitVec.extractLsb' n m) h
  , by simpa only [BitVec.setWidth_append_eq_right] using congrArg (BitVec.setWidth n) h⟩

/-- A field whose bits above the low `k` are 0 is below `2 ^ k`. -/
theorem toNat_lt_of_and_high_eq_zero {n k : Nat} {x : BitVec n} (h : x &&& BitVec.allOnes n <<< k = 0#n) :
    x.toNat < 2 ^ k := by
  refine Nat.lt_pow_two_of_testBit _ fun i hi => ?_
  rw [BitVec.testBit_toNat]
  by_cases hin : i < n
  · have hbit := congrArg (BitVec.getLsbD · i) h
    simpa [hin, Nat.not_lt.mpr hi, Nat.sub_lt_of_lt hin] using hbit
  · exact BitVec.getLsbD_of_ge _ _ (Nat.le_of_not_lt hin)

/-- What agreeing with a row says of the three fields. -/
theorem fields_of_masked {w : Word} {i : Instr} (h : w &&& rowMask i = rowMatch i) :
    opcOf w = opcOf (rowMatch i) ∧ modOf w < 2 ^ modBits i ∧ immOf w < 2 ^ immBits i := by
  have hcut : packWord (opcOf w) (modOf w) (immOf w) &&& rowMask i = rowMatch i := by rw [packWord_of_fields rfl rfl rfl, h]
  rw [rowMask_eq, packWord_and, rowMatch_eq] at hcut
  obtain ⟨hhigh, hopc⟩ := bitVec_append_inj hcut
  obtain ⟨himm, hmod⟩ := bitVec_append_inj hhigh
  have himm := toNat_lt_of_and_high_eq_zero himm
  have hmod := toNat_lt_of_and_high_eq_zero hmod
  have hopc := congrArg BitVec.toNat (BitVec.and_allOnes.symm.trans hopc)
  rw [BitVec.toNat_ofNat, Nat.mod_eq_of_lt (immOf_lt w)] at himm
  rw [BitVec.toNat_ofNat, Nat.mod_eq_of_lt (modOf_lt w)] at hmod
  rw [BitVec.toNat_ofNat, Nat.mod_eq_of_lt (opcOf_lt w), BitVec.toNat_setWidth] at hopc
  exact ⟨hopc, hmod, himm⟩

/-- Every well-formed command's word agrees with its row: the laws of the 28 rows as one. -/
theorem encode_masked : (i : Instr) → Row.Statement i
  | .nop => Row.nop
  | .reset => Row.reset
  | .crcInit => Row.crcInit
  | .crcUpdate => Row.crcUpdate
  | .crcByte b => Row.crcByte b
  | .adlerInit => Row.adlerInit
  | .adlerUpdate => Row.adlerUpdate
  | .adlerByte b => Row.adlerByte b
  | .hufLengths maxlen => Row.hufLengths maxlen
  | .hufCodes reverse => Row.hufCodes reverse
  | .hufDtable slot => Row.hufDtable slot
  | .hufDecode slot => Row.hufDecode slot
  | .hufPeek slot tree index => Row.hufPeek slot tree index
  | .lzFind reject filter probes => Row.lzFind reject filter probes
  | .lzHash fast => Row.lzHash fast
  | .encInit level zlib forceStatic filter crcTap probesOvr => Row.encInit level zlib forceStatic filter crcTap probesOvr
  | .encRun flush => Row.encRun flush
  | .decInit zlib omode crcTap => Row.decInit zlib omode crcTap
  | .decRun => Row.decRun
  | .zipNameCheck => Row.zipNameCheck
  | .zipLhWrite align => Row.zipLhWrite align
  | .zipCdWrite => Row.zipCdWrite
  | .zipEocdWrite => Row.zipEocdWrite
  | .zipEocdFind => Row.zipEocdFind
  | .zipCdParse => Row.zipCdParse
  | .zipLhCheck => Row.zipLhCheck
  | .zipNameCmp caseSensitive => Row.zipNameCmp caseSensitive
  | .zipVerify => Row.zipVerify

/-! The decoder by rows: OPC selects the row, and a word that agrees with it fills the row's fields. -/

/-- The command of `i`'s row with the fields that the word holds. -/
def filled (w : Word) : Instr → Instr
  | .crcByte _ => .crcByte (BitVec.ofNat 8 (modOf w))
  | .adlerByte _ => .adlerByte (BitVec.ofNat 8 (modOf w))
  | .hufLengths _ => .hufLengths (immOf w % 16)
  | .hufCodes _ => .hufCodes (w.getLsbD 8)
  | .hufDtable _ => .hufDtable (slotOf w)
  | .hufDecode _ => .hufDecode (slotOf w)
  | .hufPeek _ _ _ => .hufPeek (slotOf w) (w.getLsbD 10) (immOf w)
  | .lzFind _ _ _ => .lzFind (w.getLsbD 8) (w.getLsbD 9) (immOf w)
  | .lzHash _ => .lzHash (w.getLsbD 8)
  | .encInit _ _ _ _ _ _ =>
      .encInit (modOf w) (w.getLsbD 16) (w.getLsbD 17) (w.getLsbD 18) (w.getLsbD 19) (w.getLsbD 20)
  | .encRun _ => .encRun (modOf w % 8)
  | .decInit _ _ _ => .decInit (w.getLsbD 8) (modOf w / 2 % 4) (w.getLsbD 11)
  | .zipLhWrite _ => .zipLhWrite (immOf w)
  | .zipNameCmp _ => .zipNameCmp (w.getLsbD 8)
  | i => i

theorem rowMask_filled (w : Word) (i : Instr) : rowMask (filled w i) = rowMask i := by cases i <;> rfl

theorem rowMatch_filled (w : Word) (i : Instr) : rowMatch (filled w i) = rowMatch i := by cases i <;> rfl

theorem filled_filled (w : Word) (i : Instr) : filled w (filled w i) = filled w i := by cases i <;> rfl

theorem decode_of_row {w : Word} {i : Instr} (h : opcOf w = opcOf (rowMatch i)) :
    decode w = legal w (rowMask i) (rowMatch i) (filled w i) := by
  cases i <;> (rw [decode, h]; rfl)

/-- An opcode below 256 is reserved exactly if it is in no row (R184, R186). -/
theorem reservedOpcode_iff {n : Nat} (hn : n < 256) : reservedOpcode n ↔ ∀ row ∈ rows, row.1 ≠ n := by
  simp only [reservedOpcode, rows, List.cons_append, List.nil_append, List.mem_cons, List.not_mem_nil, or_false, ne_eq,
    forall_eq_or_imp, forall_eq]
  omega

theorem decode_of_reserved {w : Word} (h : reservedOpcode (opcOf w)) : decode w = .error .unknownOpc := by
  unfold decode
  unfold reservedOpcode at h
  split
  case h_29 => rfl
  all_goals omega

/-- One command for each row of the table, its fields 0. -/
def rowCommands : List Instr :=
  [.nop, .reset, .crcInit, .crcUpdate, .crcByte 0#8, .adlerInit, .adlerUpdate, .adlerByte 0#8, .hufLengths 0, .hufCodes false,
    .hufDtable 0, .hufDecode 0, .hufPeek 0 false 0, .lzFind false false 0, .lzHash false,
    .encInit 0 false false false false false, .encRun 0, .decInit false 0 false, .decRun, .zipNameCheck, .zipLhWrite 0,
    .zipCdWrite, .zipEocdWrite, .zipEocdFind, .zipCdParse, .zipLhCheck, .zipNameCmp false, .zipVerify]

theorem rows_eq_map_rowCommands : rows = rowCommands.map fun i => (opcOf (rowMatch i), rowMask i) := by decide

theorem rowMatch_eq_ofNat (i : Instr) : rowMatch i = BitVec.ofNat 32 (opcOf (rowMatch i)) := by
  cases i <;> rfl

/-- Each row of the table is a command's. -/
theorem exists_command_of_row {row : Nat × Word} (h : row ∈ rows) :
    ∃ i, opcOf (rowMatch i) = row.1 ∧ rowMask i = row.2 := by
  rw [rows_eq_map_rowCommands] at h
  obtain ⟨i, -, rfl⟩ := List.mem_map.mp h
  exact ⟨i, rfl, rfl⟩

/-- Every word is of a reserved opcode or of a command's row. -/
theorem reserved_or_row (w : Word) : reservedOpcode (opcOf w) ∨ ∃ i, opcOf w = opcOf (rowMatch i) := by
  by_cases h : reservedOpcode (opcOf w)
  · exact .inl h
  · rw [reservedOpcode_iff (opcOf_lt w)] at h
    push Not at h
    obtain ⟨row, hmem, hrow⟩ := h
    obtain ⟨i, hopc, -⟩ := exists_command_of_row hmem
    exact .inr ⟨i, hrow.symm.trans hopc.symm⟩

/-- A word decodes to a command exactly if it agrees with the command's row and holds the command's fields. -/
theorem decode_eq_ok_iff {w : Word} {i : Instr} :
    decode w = .ok i ↔ w &&& rowMask i = rowMatch i ∧ filled w i = i := by
  constructor
  · intro h
    obtain hres | ⟨j, hj⟩ := reserved_or_row w
    · rw [decode_of_reserved hres] at h
      cases h
    · rw [decode_of_row hj, legal] at h
      split at h
      · next hmask =>
        obtain rfl := Except.ok.inj h
        exact ⟨by rw [rowMask_filled, rowMatch_filled, hmask], filled_filled w j⟩
      · cases h
  · rintro ⟨hmask, hfilled⟩
    obtain ⟨hopc, -, -⟩ := fields_of_masked hmask
    rw [decode_of_row hopc, legal, if_pos hmask, hfilled]

/-! The encoder's fields read back (R181, R184). -/

theorem slotOf_packWord {slot : Fin 4} {mod : Nat} (h : mod % 4 = slot.val) (opc imm : Nat) :
    slotOf (packWord opc mod imm) = slot := by
  refine Fin.ext ?_
  rw [slotOf, modOf_packWord, Fin.val_ofNat]
  omega

/-- A bit of MOD in a word that the encoder packs. -/
theorem getLsbD_packWord_mod {mod k : Nat} (hk : k < 8) (opc imm : Nat) :
    (packWord opc mod imm).getLsbD (8 + k) = mod.testBit k := by
  rw [getLsbD_eq_testBit_modOf (by omega), modOf_packWord, show 256 = 2 ^ 8 from rfl, Nat.testBit_mod_two_pow,
    Nat.add_sub_cancel_left, decide_eq_true hk, Bool.true_and]

/-- A bit of IMM in a word that the encoder packs. -/
theorem getLsbD_packWord_imm {imm k : Nat} (hk : k < 16) (opc mod : Nat) :
    (packWord opc mod imm).getLsbD (16 + k) = imm.testBit k := by
  rw [getLsbD_eq_testBit_immOf (by omega), immOf_packWord, show 65536 = 2 ^ 16 from rfl, Nat.testBit_mod_two_pow,
    Nat.add_sub_cancel_left, decide_eq_true hk, Bool.true_and]

/-- The word of a well-formed command holds the command's fields. -/
theorem filled_encode {i : Instr} (h : i.wellFormed = true) : filled (encode i) i = i := by
  cases i
  case crcByte b | adlerByte b =>
    rw [filled, encode, modOf_packWord, Nat.mod_eq_of_lt b.isLt, BitVec.ofNat_toNat, BitVec.setWidth_eq]
  case hufLengths maxlen =>
    have hlt : maxlen < 16 := of_decide_eq_true h
    rw [filled, encode, immOf_packWord]
    congr 1
    omega
  case encRun flush =>
    have hlt : flush < 8 := of_decide_eq_true h
    rw [filled, encode, modOf_packWord]
    congr 1
    omega
  case zipLhWrite align =>
    have hlt : align < 65536 := of_decide_eq_true h
    rw [filled, encode, immOf_packWord, Nat.mod_eq_of_lt hlt]
  case hufCodes option | lzHash option | zipNameCmp option =>
    simp only [filled, encode, getLsbD_packWord_mod (k := 0) (by decide), testBit_bitsOf, List.getD_cons_zero]
  case hufDtable slot | hufDecode slot =>
    simp only [filled, encode, slotOf_packWord (Nat.mod_eq_of_lt slot.isLt)]
  case hufPeek slot tree index =>
    have hlt : index < 65536 := of_decide_eq_true h
    have hslot : (slot.val + 4 * bitsOf [tree]) % 4 = slot.val := by omega
    have htree : (slot.val + 4 * bitsOf [tree]).testBit 2 = tree := by
      clear h hslot
      revert slot tree
      decide
    simp only [filled, encode, slotOf_packWord hslot, getLsbD_packWord_mod (k := 2) (by decide), htree, immOf_packWord,
      Nat.mod_eq_of_lt hlt]
  case lzFind reject filter probes =>
    have hlt : probes < 65536 := of_decide_eq_true h
    simp only [filled, encode, getLsbD_packWord_mod (k := 0) (by decide), getLsbD_packWord_mod (k := 1) (by decide),
      testBit_bitsOf, List.getD_cons_zero, List.getD_cons_succ, immOf_packWord, Nat.mod_eq_of_lt hlt]
  case encInit level zlib forceStatic filter crcTap probesOvr =>
    have hlt : level < 256 := of_decide_eq_true h
    simp only [filled, encode, modOf_packWord, Nat.mod_eq_of_lt hlt, getLsbD_packWord_imm (k := 0) (by decide),
      getLsbD_packWord_imm (k := 1) (by decide), getLsbD_packWord_imm (k := 2) (by decide),
      getLsbD_packWord_imm (k := 3) (by decide), getLsbD_packWord_imm (k := 4) (by decide), testBit_bitsOf,
      List.getD_cons_zero, List.getD_cons_succ]
  case decInit zlib omode crcTap =>
    have hlt : omode < 4 := of_decide_eq_true h
    have hread : (bitsOf [zlib] + 2 * omode + 8 * bitsOf [crcTap]).testBit 0 = zlib ∧
        (bitsOf [zlib] + 2 * omode + 8 * bitsOf [crcTap]) % 256 / 2 % 4 = omode ∧
        (bitsOf [zlib] + 2 * omode + 8 * bitsOf [crcTap]).testBit 3 = crcTap := by
      clear h
      interval_cases omode <;> revert zlib crcTap <;> decide
    obtain ⟨hzlib, homode, hcrcTap⟩ := hread
    simp only [filled, encode, getLsbD_packWord_mod (k := 0) (by decide), getLsbD_packWord_mod (k := 3) (by decide), hzlib,
      hcrcTap, modOf_packWord, homode]
  all_goals rfl

/-- A word that agrees with a row is the word of the row's command with the fields that it holds: a field without free bits
is 0, and the command's fields make up the free bits of the others. -/
theorem encode_filled {w : Word} {i : Instr} (h : w &&& rowMask i = rowMatch i) : encode (filled w i) = w := by
  obtain ⟨hopc, hmod, himm⟩ := fields_of_masked h
  cases i
  case crcByte | adlerByte =>
    refine packWord_of_fields hopc.symm ?_ (Nat.lt_one_iff.mp himm).symm
    exact (BitVec.toNat_ofNat _ 8).trans (Nat.mod_eq_of_lt hmod)
  case hufLengths => exact packWord_of_fields hopc.symm (Nat.lt_one_iff.mp hmod).symm (Nat.mod_eq_of_lt himm)
  case zipLhWrite => exact packWord_of_fields hopc.symm (Nat.lt_one_iff.mp hmod).symm rfl
  case encRun => exact packWord_of_fields hopc.symm (Nat.mod_eq_of_lt hmod) (Nat.lt_one_iff.mp himm).symm
  case hufDtable | hufDecode => exact packWord_of_fields hopc.symm (Nat.mod_eq_of_lt hmod) (Nat.lt_one_iff.mp himm).symm
  case hufCodes | lzHash | zipNameCmp =>
    have hlt : modOf w < 2 := hmod
    refine packWord_of_fields hopc.symm ?_ (Nat.lt_one_iff.mp himm).symm
    simp only [bitsOf, toNat_getLsbD_eq_modOf_div (i := 8) (by decide)]
    omega
  case hufPeek =>
    have hlt : modOf w < 8 := hmod
    have hslot : (slotOf w).val = modOf w % 4 := rfl
    refine packWord_of_fields hopc.symm ?_ rfl
    simp only [hslot, bitsOf, toNat_getLsbD_eq_modOf_div (i := 10) (by decide)]
    omega
  case lzFind =>
    have hlt : modOf w < 4 := hmod
    refine packWord_of_fields hopc.symm ?_ rfl
    simp only [bitsOf, toNat_getLsbD_eq_modOf_div (i := 8) (by decide), toNat_getLsbD_eq_modOf_div (i := 9) (by decide)]
    omega
  case encInit =>
    have hlt : immOf w < 32 := himm
    refine packWord_of_fields hopc.symm rfl ?_
    simp only [bitsOf, toNat_getLsbD_eq_immOf_div (i := 16) (by decide), toNat_getLsbD_eq_immOf_div (i := 17) (by decide),
      toNat_getLsbD_eq_immOf_div (i := 18) (by decide), toNat_getLsbD_eq_immOf_div (i := 19) (by decide),
      toNat_getLsbD_eq_immOf_div (i := 20) (by decide)]
    omega
  case decInit =>
    have hlt : modOf w < 16 := hmod
    refine packWord_of_fields hopc.symm ?_ (Nat.lt_one_iff.mp himm).symm
    simp only [bitsOf, toNat_getLsbD_eq_modOf_div (i := 8) (by decide), toNat_getLsbD_eq_modOf_div (i := 11) (by decide)]
    omega
  all_goals exact packWord_of_fields hopc.symm (Nat.lt_one_iff.mp hmod).symm (Nat.lt_one_iff.mp himm).symm

theorem wellFormed_filled (w : Word) (i : Instr) : (filled w i).wellFormed = true := by
  cases i
  case hufLengths | encRun | decInit => exact decide_eq_true (Nat.mod_lt _ (by decide))
  case encInit => exact decide_eq_true (modOf_lt w)
  case hufPeek | lzFind | zipLhWrite => exact decide_eq_true (immOf_lt w)
  all_goals rfl

/-- Settles O1: the word agrees with the command's row and holds its fields. -/
theorem decodeOfEncodeIsTheCommand : Obligations.DecodeOfEncodeIsTheCommand := fun i h =>
  decode_eq_ok_iff.mpr ⟨encode_masked i h, filled_encode h⟩

/-- Settles O2: the bits that the row leaves free are the fields that decoding takes. -/
theorem encodeOfDecodeIsTheWord : Obligations.EncodeOfDecodeIsTheWord := by
  intro w i h
  obtain ⟨hmask, hfilled⟩ := decode_eq_ok_iff.mp h
  rw [← hfilled]
  exact ⟨encode_filled hmask, wellFormed_filled w i⟩

/-- Settles O3: each word is the one that its command encodes to. -/
theorem commandWordExamples : Obligations.CommandWordExamples :=
  have decodes : ∀ i : Instr, i.wellFormed = true → decode (encode i) = .ok i := decodeOfEncodeIsTheCommand
  ⟨decodes (.crcByte 0x41#8) rfl, decodes (.hufLengths 15) rfl, decodes (.hufCodes true) rfl, decodes (.hufPeek 1 true 3) rfl
  , decodes (.lzFind true false 16) rfl, decodes (.encInit 6 true false false false false) rfl, decodes (.encRun 4) rfl
  , decodes (.decInit true 0 false) rfl, decodes (.zipLhWrite 4) rfl, decodes .nop rfl, decodes .reset rfl⟩

/-! The block's turn with an illegal word (R186, R187). -/

theorem step_of_blockNext {s : State} (h : blockNext s) : step s = blockTurn (turnTaken s) := by
  obtain hq | hq := h
  · have hsame : turnTaken s = s := by rw [turnTaken, hq, List.tail_nil, ← hq]
    rw [hsame, step, hq]
  · obtain ⟨rest, hq⟩ := List.head?_eq_some_iff.mp hq
    rw [turnTaken, step, hq, List.tail_cons]

theorem step_of_decode_error {s : State} {e : DecodeError} (hb : blockNext s) (hbusy : s.status.busy = true)
    (h : decode s.cmd = .error e) : step s = .next ((turnTaken s).illegal e) := by
  have hbusy : (turnTaken s).status.busy = true := hbusy
  have h : decode (turnTaken s).fetchWord = .error e := h
  rw [step_of_blockNext hb, blockTurn, if_pos hbusy, h]

/-- Settles O4: a reserved opcode is in no row, so the decoder names it unknown. -/
theorem reservedOpcodeCompletesIllegal : Obligations.ReservedOpcodeCompletesIllegal :=
  ⟨fun _ hb hbusy hres => step_of_decode_error hb hbusy (decode_of_reserved hres), fun _ hn => reservedOpcode_iff hn⟩

/-- Settles O5: the row is a command's, whose mask and match the word does not agree with. -/
theorem reservedBitsCompleteIllegal : Obligations.ReservedBitsCompleteIllegal := by
  intro s row hb hbusy hrow hopc hbits
  obtain ⟨i, hrowOpc, hmask⟩ := exists_command_of_row hrow
  have hdecode : decode s.cmd = .error .reservedBits := by
    rw [decode_of_row (hopc.trans hrowOpc.symm), legal, if_neg]
    rwa [hmask, rowMatch_eq_ofNat, hrowOpc]
  exact step_of_decode_error hb hbusy hdecode

end Sys2Proof.Proofs
end

section
/-! SUPPORT. The block's turn with a legal word, and the control commands (40_control.md R210, R212, R214;
70_reset_and_hazards.md R612, R613). -/

namespace Sys2Proof.Proofs

open Sys2Proof.Machine Sys2Proof.Claims

/-! The block's turn. -/

theorem step_of_decode_ok {s : State} {i : Instr} (hb : blockNext s) (hbusy : s.status.busy = true)
    (h : decode s.cmd = .ok i) : step s = exec i (turnTaken s) := by
  have hbusy : (turnTaken s).status.busy = true := hbusy
  have h : decode (turnTaken s).fetchWord = .ok i := h
  rw [step_of_blockNext hb, blockTurn, if_pos hbusy, h]

theorem step_of_idle {s : State} (hb : blockNext s) (hidle : s.status.busy = false) :
    step s = .next (turnTaken s) := by
  have hidle : ¬(turnTaken s).status.busy = true := Bool.eq_false_iff.mp hidle
  rw [step_of_blockNext hb, blockTurn, if_neg hidle]

/-- Settles O6: taking the turn from the queue keeps STATUS and CMD, by which the block goes. -/
theorem stepPerformsTheDecodedCommand : Obligations.StepPerformsTheDecodedCommand :=
  ⟨fun _ _ => step_of_decode_ok, fun _ => step_of_idle⟩

/-! NOP and RESET. -/

/-- NOP's pseudocode is its completion alone (R210). -/
theorem exec_nop (s : State) : exec .nop s = .next (completed s 0x00#8 0#32 0#32) := runCmd_ok (finish_run .ok 0 0 s)

/-- STATUS after RESET: the reset values, with CMPL and the opcode of the command word that RESET itself puts into CMD
(R212). -/
theorem status_word_after_reset (s : State) :
    (s.resetByCommand.complete 0x00#8 0#8 0#32 0#32 0#32).status.word = 0x00010200#32 := by
  rw [State.complete_status, State.resetByCommand_status, State.resetByCommand_cmd]
  decide

/-- Settles O15: RESET's completion writes STATUS, and leaves the rest of the record at the reset values, which it equals. -/
theorem nopAndResetComplete : Obligations.NopAndResetComplete := fun s =>
  ⟨exec_nop s, _, exec_reset s, status_word_after_reset s, rfl⟩

end Sys2Proof.Proofs
end

section
/-! SUPPORT. How a command completes, in the words of the statements, and the input range with which a command begins: its
check, its read and their errors (20_memory.md R143 to R147; 60_exceptions.md R580, R581). -/

namespace Sys2Proof.Proofs

open Sys2Proof.Machine Sys2Proof.Claims

/-! Completions. -/

/-- A result or a detail given as a number of the word it is. -/
theorem ofNat_toNat_word (v : Word) : BitVec.ofNat 32 v.toNat = v := by
  rw [BitVec.ofNat_toNat, BitVec.setWidth_eq]

theorem complete_of_no_error {code : Byte} (h : isError code = false) (s : State) (cause : Byte) (info r0 r1 : Word) :
    s.complete code cause info r0 r1 = completed s code r0 r1 := by
  simp [State.complete, completed, failedWith, h]

theorem complete_of_error {code : Byte} (h : isError code = true) (s : State) (cause : Byte) (info r0 r1 : Word) :
    s.complete code cause info r0 r1 = failedWith s code cause info r0 r1 := by
  simp [State.complete, failedWith, h]

theorem runCmd_of_finish {m : Cmd Finish} {s t : State} {f : Finish} (h : m s = .ok f t) (hf : isError f.code.toByte = false) :
    runCmd m s = .next (completed t f.code.toByte f.r0 f.r1) := by
  rw [runCmd_ok h, complete_of_no_error hf]

theorem runCmd_of_raise {m : Cmd Finish} {s t : State} {c : Cause} {info : Nat} (h : m s = (c.raise info : Cmd Finish) t) :
    runCmd m s = .next (raised t c.code.toByte c.num (BitVec.ofNat 32 info)) := by
  rw [runCmd_error (h.trans (raise_run c info t)), complete_of_error (isError_cause_code c), raised]

theorem runCmd_congr {m m' : Cmd Finish} {s : State} (h : m s = m' s) : runCmd m s = runCmd m' s := by
  unfold runCmd; rw [h]

/-- A command that ends by one update of the state and OK. -/
theorem runCmd_modify_finish (f : State → State) (r0 r1 : Nat) (s : State) :
    runCmd (do modify f; finish .ok r0 r1) s = .next (completed (f s) 0x00#8 (BitVec.ofNat 32 r0) (BitVec.ofNat 32 r1)) :=
  runCmd_of_finish (f := { code := .ok, r0 := BitVec.ofNat 32 r0, r1 := BitVec.ofNat 32 r1 })
    ((bind_ok (modify_run f s)).trans (finish_run .ok r0 r1 (f s))) rfl

theorem bind_of_raise {α β : Type} {m : Cmd α} {k : α → Cmd β} {s t : State} {c : Cause} {info : Nat}
    (h : m s = (c.raise info : Cmd α) t) : (m >>= k) s = (c.raise info : Cmd β) t :=
  bind_error (h.trans (raise_run c info t))

/-! An input range. -/

/-- A range read fails at the first byte that cannot be read. -/
theorem readRange_of_first_failure {s : State} {a n k : Nat} (hk : k < n) (hok : ∀ j < k, s.memOk (a + j) .read = true)
    (hfail : s.memOk (a + k) .read = false) : s.readRange a n = .error (a + k) := by
  cases h : s.readRange a n with
  | ok bs => simp [(State.readRange_ok h).1 k hk] at hfail
  | error x =>
    obtain ⟨hax, -, hx, hbelow⟩ := State.readRange_error h
    obtain hlt | heq | hgt := Nat.lt_trichotomy x (a + k)
    · have := hok (x - a) (by omega)
      simp [Nat.add_sub_cancel' hax, hx] at this
    · rw [heq]
    · simp [hbelow (a + k) (by omega) hgt] at hfail

/-- Check an input range, read it and go on with its bytes. -/
def readInput {β : Type} (a n : Nat) (k : List Byte → Cmd β) : Cmd β := do
  checkRange a n
  let data ← memRead a n
  k data

section
variable {β : Type} {s : State} {a n : Nat} (k : List Byte → Cmd β)

theorem readInput_of_readable (h : Readable s a n) : readInput a n k s = k (bytesAt s a n) s := by
  obtain ⟨h0, hend, hok⟩ := h
  rw [readInput, bind_ok (checkRange_ok s h0 hend), bind_ok (memRead_ok (State.readRange_of_ok hok)), bytesAt]

theorem readInput_nullBuf (hn : 0 < n) (ha : a = 0) : readInput a n k s = (Cause.nullBuf.raise 0 : Cmd β) s :=
  bind_of_raise (checkRange_nullBuf s hn ha)

theorem readInput_range (ha : a ≠ 0) (hend : 2 ^ 32 < a + n) : readInput a n k s = (Cause.range.raise a : Cmd β) s :=
  bind_of_raise (checkRange_range s (fun _ => ha) hend)

theorem readInput_busRead {j : Nat} (hend : a + n ≤ 2 ^ 32) (hj : j < n) (hr : Readable s a j) (ha : a ≠ 0)
    (hfail : s.memOk (a + j) .read = false) : readInput a n k s = (Cause.busRead.raise (a + j) : Cmd β) s := by
  obtain ⟨-, -, hok⟩ := hr
  rw [readInput, bind_ok (checkRange_ok s (fun _ => ha) hend)]
  exact bind_of_raise (memRead_error (readRange_of_first_failure hj hok hfail))

end

end Sys2Proof.Proofs
end

section
/-! SUPPORT. CRC-32: a step of the division is linear over exclusive or, by which the table-driven form is the bit-serial one;
an update by one string after another (41_checksums.md R220, R221). -/

namespace Sys2Proof.Proofs

open Sys2Proof.Machine Sys2Proof.Claims

/-! The division. -/

theorem crcShift_xor (x y : Word) : crcShift (x ^^^ y) = crcShift x ^^^ crcShift y := by
  have hshift : (x ^^^ y) >>> 1 = (x >>> 1) ^^^ (y >>> 1) := BitVec.ushiftRight_xor_distrib x y 1
  simp only [crcShift, BitVec.getLsbD_xor, hshift]
  generalize x >>> 1 = x', y >>> 1 = y', Config.crcPoly = p
  cases x.getLsbD 0 <;> cases y.getLsbD 0
  case false.false => rfl
  case false.true => exact BitVec.xor_assoc x' y' p
  case true.false => change x' ^^^ y' ^^^ p = x' ^^^ p ^^^ y'; ac_rfl
  case true.true =>
    change x' ^^^ y' = x' ^^^ p ^^^ (y' ^^^ p)
    calc x' ^^^ y' = x' ^^^ y' ^^^ (p ^^^ p) := by rw [BitVec.xor_self, BitVec.xor_zero]
      _ = x' ^^^ p ^^^ (y' ^^^ p) := by ac_rfl

theorem crcShifts_xor (n : Nat) (x y : Word) : crcShifts n (x ^^^ y) = crcShifts n x ^^^ crcShifts n y := by
  induction n generalizing x y with
  | zero => rfl
  | succ n ih => rw [crcShifts, crcShift_xor, ih]; rfl

/-- While the bits shifted out are 0, the division only shifts. -/
theorem crcShifts_of_low_zero {n : Nat} {x : Word} (h : ∀ i < n, x.getLsbD i = false) : crcShifts n x = x >>> n := by
  induction n generalizing x with
  | zero => simp [crcShifts]
  | succ n ih =>
    have hfirst : crcShift x = x >>> 1 := by rw [crcShift, h 0 (by omega)]; rfl
    have hrest : ∀ i < n, (x >>> 1).getLsbD i = false := fun i hi => by
      rw [BitVec.getLsbD_ushiftRight]; exact h (1 + i) (by omega)
    rw [crcShifts, hfirst, ih hrest, ← BitVec.shiftRight_add, Nat.add_comm]

/-- Eight steps: the high bits are shifted down, and only the low byte is divided. -/
theorem crcShifts_eight (x : Word) : crcShifts 8 x = (x >>> 8) ^^^ crcShifts 8 (x &&& 0xFF#32) := by
  have hsplit : x = (x &&& 0xFFFFFF00#32) ^^^ (x &&& 0xFF#32) := by
    ext i hi
    interval_cases i <;> simp
  have hlow : ∀ i < 8, (x &&& 0xFFFFFF00#32).getLsbD i = false := fun i hi => by
    have : ∀ i < 8, (0xFFFFFF00#32).getLsbD i = false := by decide
    rw [BitVec.getLsbD_and, this i hi, Bool.and_false]
  have hhigh : (x &&& 0xFFFFFF00#32) >>> 8 = x >>> 8 := by
    ext i hi
    interval_cases i <;> simp
  calc crcShifts 8 x = crcShifts 8 (x &&& 0xFFFFFF00#32) ^^^ crcShifts 8 (x &&& 0xFF#32) := by
        rw [← crcShifts_xor, ← hsplit]
    _ = (x >>> 8) ^^^ crcShifts 8 (x &&& 0xFF#32) := by rw [crcShifts_of_low_zero hlow, hhigh]

/-! The table (R221). -/

theorem crcShift_eq_ite (c : Word) : crcShift c = if c &&& 1#32 = 1#32 then (c >>> 1) ^^^ 0xEDB88320#32 else c >>> 1 := by
  have hbit : c &&& 1#32 = 1#32 ↔ c.getLsbD 0 = true := by
    rw [BitVec.and_one_eq_setWidth_ofBool_getLsbD]
    cases c.getLsbD 0 <;> decide
  simp only [crcShift, hbit]

theorem crcTable_eq_crcShifts (k : Word) : crcTable k = crcShifts 8 k := by
  simp only [crcTable, ← crcShift_eq_ite]; rfl

theorem crcStep_eq_table (c : Word) (b : Byte) :
    crcStep c b = (c >>> 8) ^^^ crcTable ((c ^^^ b.setWidth 32) &&& 0xFF#32) := by
  have hbyte : (b.setWidth 32) >>> 8 = 0#32 := by
    ext i hi; simp
  rw [crcStep, crcShifts_eight, crcTable_eq_crcShifts, BitVec.ushiftRight_xor_distrib, hbyte, BitVec.xor_zero]

theorem crcByTable_eq_crcUpdate (acc : Word) (bs : List Byte) : crcByTable acc bs = crcUpdate acc bs := by
  simp only [crcByTable, ← crcStep_eq_table]; rfl

/-! One string after another (R220). -/

/-- The accumulator is held inverted between updates, and the two inversions cancel. -/
theorem crcUpdate_append (acc : Word) (a b : List Byte) : crcUpdate (crcUpdate acc a) b = crcUpdate acc (a ++ b) := by
  simp only [crcUpdate, BitVec.xor_assoc, BitVec.xor_self, BitVec.xor_zero, List.foldl_append]

end Sys2Proof.Proofs
end

section
/-! SUPPORT. Adler-32: its two sums, what an update makes of them, and an update by one string after another
(41_checksums.md R220, R224, R226). -/

namespace Sys2Proof.Proofs

open Sys2Proof.Machine Sys2Proof.Claims

/-! The two sums of an accumulator. -/

/-- The sums (A, B) that an accumulator holds, A in its low half (R224). -/
def adlerSums (acc : Word) : Nat × Nat := (acc.toNat % 65536, acc.toNat / 65536)

/-- Both sums are reduced. -/
def AdlerReduced (ab : Nat × Nat) : Prop := ab.1 < 65521 ∧ ab.2 < 65521

theorem adlerSums_adlerPack {ab : Nat × Nat} (h : AdlerReduced ab) : adlerSums (adlerPack ab) = ab := by
  obtain ⟨hA, hB⟩ := h
  have hfit : ab.2 * 65536 + ab.1 < 2 ^ 32 := by omega
  ext
  · simp only [adlerSums, adlerPack, BitVec.toNat_ofNat, Nat.mod_eq_of_lt hfit]; omega
  · simp only [adlerSums, adlerPack, BitVec.toNat_ofNat, Nat.mod_eq_of_lt hfit]; omega

theorem adlerReduced_adlerStep (ab : Nat × Nat) (b : Byte) : AdlerReduced (adlerStep ab b) :=
  ⟨Nat.mod_lt _ (by decide), Nat.mod_lt _ (by decide)⟩

/-- The last byte's step reduces both sums. -/
theorem adlerReduced_foldl {bs : List Byte} (hne : bs ≠ []) (ab : Nat × Nat) : AdlerReduced (bs.foldl adlerStep ab) := by
  rw [← List.dropLast_concat_getLast hne, List.foldl_concat]
  exact adlerReduced_adlerStep _ _

theorem adlerUpdate_of_ne_nil {bs : List Byte} (hne : bs ≠ []) (acc : Word) :
    adlerUpdate acc bs = adlerPack (bs.foldl adlerStep (adlerSums acc)) := by
  cases bs with
  | nil => contradiction
  | cons b rest => rfl

theorem adlerSums_adlerUpdate {bs : List Byte} (hne : bs ≠ []) (acc : Word) :
    adlerSums (adlerUpdate acc bs) = bs.foldl adlerStep (adlerSums acc) := by
  rw [adlerUpdate_of_ne_nil hne, adlerSums_adlerPack (adlerReduced_foldl hne _)]

/-! An update by one string after another (R220). -/

/-- An empty update changes nothing; after another one the sums are reduced, so that packing them loses nothing. -/
theorem adlerUpdate_append (acc : Word) (a b : List Byte) :
    adlerUpdate (adlerUpdate acc a) b = adlerUpdate acc (a ++ b) := by
  by_cases ha : a = []
  · subst ha; rfl
  by_cases hb : b = []
  · subst hb; rw [List.append_nil]; rfl
  rw [adlerUpdate_of_ne_nil hb, adlerSums_adlerUpdate ha, ← List.foldl_append,
    adlerUpdate_of_ne_nil (List.append_ne_nil_of_left_ne_nil ha b)]

/-! The sums after an update (R224). -/

theorem byteSum_cons (b : Byte) (bs : List Byte) : byteSum (b :: bs) = b.toNat + byteSum bs := by
  simp [byteSum]

/-- The first byte stands in each of the string's non-empty starts. -/
theorem weightedSum_cons (b : Byte) (bs : List Byte) :
    weightedSum (b :: bs) = (bs.length + 1) * b.toNat + weightedSum bs := by
  have hstart (i : Nat) : byteSum ((b :: bs).take (i + 1)) = b.toNat + byteSum (bs.take i) := by
    rw [List.take_succ_cons, byteSum_cons]
  simp only [weightedSum, hstart, List.length_cons, List.sum_map_add, List.map_const', List.sum_replicate, List.length_range,
    smul_eq_mul]
  rw [List.range_succ_eq_map, List.map_cons, List.sum_cons, List.map_map]
  simp [byteSum, Function.comp_def]

/-- A string adds its bytes to the low sum, and to the high sum each low sum on the way. -/
theorem foldl_adlerStep_modEq (ab : Nat × Nat) (bs : List Byte) :
    (bs.foldl adlerStep ab).1 ≡ ab.1 + byteSum bs [MOD 65521] ∧
    (bs.foldl adlerStep ab).2 ≡ ab.2 + bs.length * ab.1 + weightedSum bs [MOD 65521] := by
  induction bs generalizing ab with
  | nil => simp [byteSum, weightedSum, Nat.ModEq.refl]
  | cons b bs ih =>
    obtain ⟨ihA, ihB⟩ := ih (adlerStep ab b)
    have hA : (adlerStep ab b).1 ≡ ab.1 + b.toNat [MOD 65521] := Nat.mod_modEq _ _
    have hB : (adlerStep ab b).2 ≡ ab.2 + (ab.1 + b.toNat) [MOD 65521] := (Nat.mod_modEq _ _).trans (hA.add_left _)
    refine ⟨?_, ?_⟩
    · rw [byteSum_cons, ← Nat.add_assoc]
      exact ihA.trans (hA.add_right _)
    · rw [weightedSum_cons, List.length_cons]
      calc (bs.foldl adlerStep (adlerStep ab b)).2
          ≡ (adlerStep ab b).2 + bs.length * (adlerStep ab b).1 + weightedSum bs [MOD 65521] := ihB
        _ ≡ ab.2 + (ab.1 + b.toNat) + bs.length * (ab.1 + b.toNat) + weightedSum bs [MOD 65521] :=
            (hB.add (hA.mul_left _)).add_right _
        _ = ab.2 + (bs.length + 1) * ab.1 + ((bs.length + 1) * b.toNat + weightedSum bs) := by ring

end Sys2Proof.Proofs
end

section
/-! SUPPORT. The checksum statements: the two functions, and the six commands over them (41_checksums.md R220 to R234). -/

namespace Sys2Proof.Proofs

open Sys2Proof.Machine Sys2Proof.Claims

/-- Settles O24: the two laws of appending, and for each checksum two single bytes whose order matters. -/
theorem checksumsAppend : Obligations.ChecksumsAppend :=
  ⟨fun acc a b => ⟨crcUpdate_append acc a b, adlerUpdate_append acc a b⟩, ⟨0#32, [0#8], [1#8], by decide +kernel⟩,
    ⟨1#32, [0#8], [1#8], by decide⟩⟩

/-- Settles O25: the table by the linearity of the division, the sums by their values modulo 65521. -/
theorem checksumFormsAgree : Obligations.ChecksumFormsAgree := by
  refine ⟨crcByTable_eq_crcUpdate, fun _ => rfl, fun acc bs hne => ?_⟩
  have hsums := adlerSums_adlerUpdate hne acc
  obtain ⟨hA, hB⟩ := foldl_adlerStep_modEq (adlerSums acc) bs
  obtain ⟨hlow, hhigh⟩ := adlerReduced_foldl hne (adlerSums acc)
  rw [← hsums] at hA hB hlow hhigh
  exact ⟨(Nat.mod_eq_of_lt hlow).symm.trans hA, (Nat.mod_eq_of_lt hhigh).symm.trans hB, hlow, hhigh⟩

/-! The commands. -/

/-- The end that the six commands share: the accumulator takes a value, which is the first result, and `n` is the second. -/
def finishChecksum (set : State → Word → State) (n : Nat) (v : Word) : Cmd Finish := do
  modify (set · v)
  finish .ok v.toNat n

theorem runCmd_finishChecksum (set : State → Word → State) (n : Nat) (v : Word) (s : State) :
    runCmd (finishChecksum set n v) s = .next (completed (set s v) 0x00#8 v (BitVec.ofNat 32 n)) := by
  rw [finishChecksum, runCmd_modify_finish, ofNat_toNat_word]

theorem exec_crcInit (s : State) : exec .crcInit s = runCmd (finishChecksum State.setCrc 0 0#32) s := rfl

theorem exec_adlerInit (s : State) : exec .adlerInit s = runCmd (finishChecksum State.setAdler 0 1#32) s := rfl

theorem exec_crcByte (b : Byte) (s : State) :
    exec (.crcByte b) s = runCmd (finishChecksum State.setCrc 1 (crcUpdate s.crcAcc [b])) s := rfl

theorem exec_adlerByte (b : Byte) (s : State) :
    exec (.adlerByte b) s = runCmd (finishChecksum State.setAdler 1 (adlerUpdate s.adlerAcc [b])) s := rfl

theorem exec_crcUpdate (s : State) :
    exec .crcUpdate s = runCmd (readInput s.args.a0.toNat s.args.a1.toNat fun bs =>
      finishChecksum State.setCrc s.args.a1.toNat (crcUpdate s.crcAcc bs)) s := rfl

theorem exec_adlerUpdate (s : State) :
    exec .adlerUpdate s = runCmd (readInput s.args.a0.toNat s.args.a1.toNat fun bs =>
      finishChecksum State.setAdler s.args.a1.toNat (adlerUpdate s.adlerAcc bs)) s := rfl

/-- Settles O21: each of the four is one update of its accumulator and a completion. -/
theorem checksumInitsAndBytes : Obligations.ChecksumInitsAndBytes := by
  intro s b
  rw [exec_crcInit, exec_adlerInit, exec_crcByte, exec_adlerByte, crcByTable_eq_crcUpdate]
  simp only [runCmd_finishChecksum]
  exact ⟨rfl, rfl, rfl, rfl⟩

/-- Settles O22: over a readable range each command goes on with the range's bytes. -/
theorem checksumBufferUpdates : Obligations.ChecksumBufferUpdates := by
  intro s hr
  rw [exec_crcUpdate, exec_adlerUpdate, runCmd_congr (readInput_of_readable _ hr), runCmd_congr (readInput_of_readable _ hr),
    runCmd_finishChecksum, runCmd_finishChecksum, ofNat_toNat_word]
  exact ⟨rfl, rfl⟩

/-- Both buffer commands read their input first. -/
theorem exec_update_readsInput {i : Instr} (hi : i = .crcUpdate ∨ i = .adlerUpdate) (s : State) :
    ∃ k, exec i s = runCmd (readInput s.args.a0.toNat s.args.a1.toNat k) s := by
  obtain rfl | rfl := hi
  · exact ⟨_, exec_crcUpdate s⟩
  · exact ⟨_, exec_adlerUpdate s⟩

/-- Settles O23: the errors are those of the input range, raised before the accumulator is written. -/
theorem checksumUpdateErrors : Obligations.ChecksumUpdateErrors := by
  intro s i hi
  obtain ⟨k, hexec⟩ := exec_update_readsInput hi s
  rw [hexec]
  have hne (ha : s.args.a0 ≠ 0#32) : s.args.a0.toNat ≠ 0 := fun h => ha (BitVec.eq_of_toNat_eq h)
  refine ⟨fun hn ha => ?_, fun ha hend => ?_, fun j ha hend hj hr hfail => ?_⟩
  · exact runCmd_of_raise (readInput_nullBuf k hn (congrArg BitVec.toNat ha))
  · rw [runCmd_of_raise (readInput_range k (hne ha) hend), ofNat_toNat_word]; rfl
  · rw [runCmd_of_raise (readInput_busRead k hend hj hr (hne ha) hfail), BitVec.ofNat_add, ofNat_toNat_word]; rfl

end Sys2Proof.Proofs
end

section
/-! SUPPORT. A command that reads an input range and writes an output range apart from it: its checks, the read, and the write
with which it ends (20_memory.md R143 to R148). -/

namespace Sys2Proof.Proofs

open Sys2Proof.Machine Sys2Proof.Claims

/-- Check an input and an output range, read the input and go on with its bytes. -/
def readBeforeWrite {β : Type} (a n o m : Nat) (k : List Byte → Cmd β) : Cmd β := do
  checkRange a n
  checkRange o m
  checkOverlap [(a, n)] (o, m)
  let data ← memRead a n
  k data

theorem rangesOverlap_of_apart {a n o m : Nat} (h : Apart a n o m) : rangesOverlap (o, m) (a, n) = false := by
  simp only [rangesOverlap, Bool.and_eq_false_iff, decide_eq_false_iff_not]
  simp only [Apart] at h
  omega

theorem readBeforeWrite_of_apart {β : Type} {s : State} {a n o m : Nat} (k : List Byte → Cmd β) (hin : Readable s a n)
    (hout : Writable s o m) (hapart : Apart a n o m) : readBeforeWrite a n o m k s = k (bytesAt s a n) s := by
  obtain ⟨hin0, hinEnd, hread⟩ := hin
  obtain ⟨hout0, houtEnd, -⟩ := hout
  have hno : [(a, n)].any (rangesOverlap (o, m)) = false := by simp [rangesOverlap_of_apart hapart]
  rw [readBeforeWrite, bind_ok (checkRange_ok s hin0 hinEnd), bind_ok (checkRange_ok s hout0 houtEnd),
    bind_ok (checkOverlap_ok s hno), bind_ok (memRead_ok (State.readRange_of_ok hread)), bytesAt]

/-- A command that ends by a write of a writable range and OK. -/
theorem runCmd_memWrite_finish {s : State} {o : Nat} {bs : List Byte} (hwf : s.mem.wf = true)
    (hout : Writable s o bs.length) (r0 r1 : Nat) :
    ∃ t, runCmd (do memWrite o bs; finish .ok r0 r1) s = .next t ∧
      t = completed { s with mem := t.mem } 0x00#8 (BitVec.ofNat 32 r0) (BitVec.ofNat 32 r1) ∧ Stored s t o bs := by
  obtain ⟨-, -, hok⟩ := hout
  have hrun := runCmd_of_finish (m := do memWrite o bs; finish .ok r0 r1)
    ((bind_ok (memWrite_ok (State.writeRange_of_ok hok))).trans (finish_run .ok r0 r1 _)) rfl
  refine ⟨_, hrun, ?_, fun k b hk => ?_, fun x hx => State.writeRange_outside s o bs hx⟩
  · rw [State.writeRange_frame]; rfl
  · obtain ⟨hlt, rfl⟩ := List.getElem?_eq_some_iff.mp hk
    exact State.writeRange_inside hwf hok hlt

theorem bytesAt_succ (s : State) (a n : Nat) : bytesAt s a (n + 1) = s.mem.read a :: bytesAt s (a + 1) n := by
  simp [bytesAt, List.range_succ_eq_map, Nat.add_assoc, Nat.add_comm 1]

@[simp] theorem length_bytesAt (s : State) (a n : Nat) : (bytesAt s a n).length = n := by simp [bytesAt]

/-- The 16-bit entries of a range's bytes are those of host memory. -/
theorem halves_bytesAt (s : State) (a n : Nat) :
    halves (bytesAt s a (2 * n)) = (List.range n).map (fun k => half s (a + 2 * k)) := by
  induction n generalizing a with
  | zero => rfl
  | succ n ih =>
    have hnext (k : Nat) : a + 1 + 1 + 2 * k = a + 2 * (k + 1) := by omega
    rw [show 2 * (n + 1) = 2 * n + 1 + 1 by omega, bytesAt_succ, bytesAt_succ, halves, ih, List.range_succ_eq_map,
      List.map_cons, List.map_map]
    simp only [hnext]
    rfl

end Sys2Proof.Proofs
end

section
/-! SUPPORT. HUF_PEEK (42_huffman.md R290). -/

namespace Sys2Proof.Proofs

open Sys2Proof.Machine Sys2Proof.Claims Sys2Proof.Laws

theorem val_slotOf (w : Word) : (slotOf w).val = w.toNat / 2 ^ 8 % 4 := by
  rw [slotOf, modOf, Fin.val_ofNat]
  omega

/-- The words of HUF_PEEK, by its row of the table and its fields. -/
theorem decode_eq_hufPeek_iff {w : Word} {k : Fin 4} {tree : Bool} {j : Nat} :
    decode w = .ok (.hufPeek k tree j) ↔ w &&& 0x0000F8FF#32 = 0x00000024#32 ∧
      w.toNat / 2 ^ 8 % 4 = k.val ∧ w.getLsbD 10 = tree ∧ w.toNat / 2 ^ 16 = j := by
  rw [decode_eq_ok_iff, filled, Instr.hufPeek.injEq, Fin.ext_iff, val_slotOf]
  rfl

theorem ofNat_shiftLeft (x n : Nat) : BitVec.ofNat 32 (x <<< n) = BitVec.ofNat 32 x <<< n :=
  BitVec.eq_of_toNat_eq (by simp [Nat.shiftLeft_eq])

theorem ofNat_toNat_entry (sl : Slot) (tree : Bool) (j : Nat) :
    BitVec.ofNat 32 (sl.entry tree j).toNat =
      BitVec.setWidth 32 (if tree then sl.tree.getD j 0#16 else sl.fast.getD j 0#16) := BitVec.ofNat_toNat _ _

/-- HUF_PEEK checks its index against the table it reads and answers from the slot. -/
theorem exec_hufPeek (s : State) (k : Fin 4) (tree : Bool) (j : Nat) :
    exec (.hufPeek k tree j) s = runCmd (do
      deny (decide ((if tree then 575 else 1023) < j)) .badIndex j
      finish .ok ((s.slots.get k).entry tree j).toNat ((s.slots.get k).used ||| (s.slots.get k).nodes <<< 16)) s := by
  cases tree
  · refine runCmd_congr ?_
    by_cases h : 1023 < j <;> simp [h, bind_run, deny_run, raise_run]
  · rfl

/-- Settles O32: the two index checks are one, and the counts stand in the two halves of the second result. -/
theorem hufPeekReadsTheEntry : Obligations.HufPeekReadsTheEntry := by
  intro s k tree j
  refine ⟨fun w => decode_eq_hufPeek_iff, fun hj => ?_, fun hj => ?_⟩
  · rw [exec_hufPeek, decide_eq_false (Nat.not_lt.mpr hj), runCmd_congr (bind_ok (deny_false _ _ _))]
    rw [runCmd_of_finish (finish_run .ok _ _ s) rfl, BitVec.ofNat_or, ofNat_shiftLeft, ofNat_toNat_entry]
    rfl
  · rw [exec_hufPeek, decide_eq_true hj, runCmd_of_raise (bind_of_raise (deny_true _ _ _))]
    rfl

end Sys2Proof.Proofs
end

section
/-! SUPPORT. rev_n, the bits of a number in reverse order (00_scope.md R20). -/

namespace Sys2Proof.Proofs

open Sys2Proof.Machine

theorem revBits_lt (n c : Nat) : revBits n c < 2 ^ n := by
  induction n generalizing c with
  | zero => exact Nat.one_pos
  | succ n ih =>
    have hrest := ih (c / 2)
    have hfirst : c % 2 * 2 ^ n ≤ 1 * 2 ^ n := Nat.mul_le_mul_right _ (by omega)
    rw [revBits, Nat.pow_succ]
    omega

/-- Bit i of the reversed bits is bit n-1-i. -/
theorem testBit_revBits (n c i : Nat) : (revBits n c).testBit i = (decide (i < n) && c.testBit (n - 1 - i)) := by
  induction n generalizing c i with
  | zero => simp [revBits]
  | succ n ih =>
    rw [revBits, Nat.mul_comm, Nat.testBit_two_pow_mul_add _ (revBits_lt n _)]
    split
    · next hi =>
      rw [ih, show n + 1 - 1 - i = n - 1 - i + 1 by omega, Nat.testBit_succ]
      simp [hi, Nat.lt_succ_of_lt hi]
    · next hi =>
      by_cases heq : i = n
      · subst heq; simp [Nat.testBit_zero]
      · have : (c % 2).testBit (i - n) = false := Nat.testBit_lt_two_pow
          ((Nat.mod_lt _ (by decide)).trans_le (Nat.le_self_pow (by omega) 2))
        simp [this, show ¬ i < n + 1 by omega]

/-- The first `m` bits of a code that is sent last bit first are its high bits. -/
theorem revBits_mod_two_pow {m n : Nat} (h : m ≤ n) (c : Nat) : revBits n c % 2 ^ m = revBits m (c / 2 ^ (n - m)) := by
  refine Nat.eq_of_testBit_eq fun i => ?_
  simp only [Nat.testBit_mod_two_pow, testBit_revBits, Nat.testBit_div_two_pow]
  by_cases hi : i < m
  · simp [hi, hi.trans_le h, show n - 1 - i = m - 1 - i + (n - m) by omega]
  · simp [hi]

theorem revBits_revBits (n c : Nat) : revBits n (revBits n c) = c % 2 ^ n := by
  refine Nat.eq_of_testBit_eq fun i => ?_
  simp only [Nat.testBit_mod_two_pow, testBit_revBits]
  by_cases hi : i < n
  · simp [hi, show n - 1 - i < n by omega, show n - 1 - (n - 1 - i) = i by omega]
  · simp [hi]

/-- Numbers of `n` bits are told apart by their reversed bits. -/
theorem revBits_inj {n c d : Nat} (hc : c < 2 ^ n) (hd : d < 2 ^ n) (h : revBits n c = revBits n d) : c = d := by
  rw [← Nat.mod_eq_of_lt hc, ← Nat.mod_eq_of_lt hd, ← revBits_revBits, h, revBits_revBits]

end Sys2Proof.Proofs
end

section
/-! SUPPORT. Canonical codes (42_huffman.md R260): the code of a symbol by the numbers of shorter codes, and that the codes of a
vector with a Kraft sum of at most 1 fit their lengths and none begins another. -/

namespace Sys2Proof.Proofs

open Sys2Proof.Machine Sys2Proof.Claims

/-! The code space taken by the codes of at most a length. -/

/-- How much of the space of `L`-bit codes the codes of at most `L` bits take: the first code past those of length `L`. -/
def codesEnd (len : List Nat) (L : Nat) : Nat := (len.map fun l => if 0 < l ∧ l ≤ L then 2 ^ (L - l) else 0).sum

@[simp] theorem codesEnd_zero (len : List Nat) : codesEnd len 0 = 0 := by
  refine List.sum_eq_zero fun x hx => ?_
  obtain ⟨l, -, rfl⟩ := List.mem_map.mp hx
  exact if_neg (by omega)

/-- With one more bit each code takes twice the space, and the codes of the new length come after. -/
theorem codesEnd_succ (len : List Nat) (L : Nat) : codesEnd len (L + 1) = 2 * codesEnd len L + len.count (L + 1) := by
  induction len with
  | nil => rfl
  | cons l len ih =>
    simp only [codesEnd, List.map_cons, List.sum_cons, List.count_cons] at ih ⊢
    rw [ih]
    obtain hlt | heq | hgt := Nat.lt_trichotomy l (L + 1)
    · have hpow : 2 ^ (L + 1 - l) = 2 * 2 ^ (L - l) := by rw [← Nat.pow_succ', Nat.succ_sub (by omega)]
      simp only [hpow, show l ≤ L + 1 by omega, show l ≤ L by omega, beq_iff_eq, hlt.ne, and_true, if_false]
      split <;> omega
    · subst heq
      simp
      omega
    · simp [show ¬ l ≤ L by omega, show ¬ l ≤ L + 1 by omega, hgt.ne']

/-- The codes of more bits begin after those of fewer. -/
theorem codesEnd_mul_two_pow_le (len : List Nat) (L k : Nat) : codesEnd len L * 2 ^ k ≤ codesEnd len (L + k) := by
  induction k with
  | zero => simp
  | succ k ih =>
    rw [← Nat.add_assoc, codesEnd_succ, Nat.pow_succ, ← Nat.mul_assoc]
    omega

theorem scaledKraft_eq_kraft (len : List Nat) : scaledKraft len = kraft len := rfl

/-- The space taken by all the codes is the Kraft sum (R251). -/
theorem codesEnd_fifteen {len : List Nat} (h : ∀ l ∈ len, l ≤ 15) : codesEnd len 15 = kraft len := by
  refine congrArg List.sum (List.map_congr_left fun l hl => ?_)
  simp [kraftTerm, h l hl, Nat.pos_iff_ne_zero, ite_not]

theorem codesEnd_le_two_pow {len : List Nat} (h : ValidLengths len) {L : Nat} (hL : L ≤ 15) : codesEnd len L ≤ 2 ^ L := by
  obtain ⟨hlen, hkraft⟩ := h
  rw [scaledKraft_eq_kraft, ← codesEnd_fifteen hlen] at hkraft
  have hend := codesEnd_mul_two_pow_le len L (15 - L)
  rw [Nat.add_sub_cancel' hL] at hend
  have : codesEnd len L * 2 ^ (15 - L) ≤ 2 ^ L * 2 ^ (15 - L) := by
    rw [← Nat.pow_add, Nat.add_sub_cancel' hL]
    exact hend.trans hkraft
  exact Nat.le_of_mul_le_mul_right this (Nat.two_pow_pos _)

/-! The codes. -/

theorem codeStarts_eq_map (len : List Nat) (L n : Nat) :
    codeStarts (2 * codesEnd len L) ((List.range' (L + 1) n).map fun l => len.count l) =
      (List.range' (L + 1) n).map fun l => 2 * codesEnd len l := by
  induction n generalizing L with
  | zero => rfl
  | succ n ih =>
    rw [List.range'_succ, List.map_cons, List.map_cons, codeStarts, ← ih, codesEnd_succ, Nat.mul_comm]

/-- The first code of each length is twice the space taken by the shorter codes. -/
theorem nextCodes_eq_map (len : List Nat) : nextCodes len = (List.range 16).map fun L => 2 * codesEnd len (L - 1) := by
  have h := codeStarts_eq_map len 0 14
  rw [codesEnd_zero] at h
  rw [nextCodes, codeStarts, h]
  simp [List.range'_eq_map_range, List.range_succ_eq_map]

theorem length_assignCodes (next len : List Nat) : (assignCodes next len).length = len.length := by
  induction len generalizing next with
  | nil => rfl
  | cons l len ih => rw [assignCodes]; split <;> simp [ih]

@[simp] theorem length_canonicalCodes (len : List Nat) : (canonicalCodes len).length = len.length := length_assignCodes _ _

/-- A symbol's code is the next code of its length, after one for each earlier symbol of that length. -/
theorem assignCodes_getD {next len : List Nat} {i l : Nat} (hi : len[i]? = some l) (hl : 0 < l) (hnext : l < next.length) :
    (assignCodes next len).getD i 0 = next.getD l 0 + (len.take i).count l := by
  induction len generalizing next i with
  | nil => simp at hi
  | cons x len ih =>
    cases i with
    | zero =>
      obtain rfl : x = l := by simpa using hi
      simp [assignCodes, hl.ne']
    | succ i =>
      rw [List.getElem?_cons_succ] at hi
      rw [assignCodes, List.take_succ_cons, List.count_cons]
      split
      · next hx =>
        subst hx
        rw [List.getD_cons_succ, ih hi hnext, if_neg (by simpa using hl.ne), Nat.add_zero]
      · rw [List.getD_cons_succ, ih hi (by simpa using hnext), List.getD_eq_getElem?_getD, List.getElem?_set,
          List.getD_eq_getElem?_getD]
        by_cases hxl : x = l
        · simp [hxl, hnext]; omega
        · simp [hxl]

/-- A code-length vector's code of symbol `i`, as a number (R260). -/
abbrev codeOf (len : List Nat) (i : Nat) : Nat := (canonicalCodes len).getD i 0

theorem codeOf_eq {len : List Nat} {i l : Nat} (hi : len[i]? = some l) (hl : 0 < l) (hl15 : l ≤ 15) :
    codeOf len i = 2 * codesEnd len (l - 1) + (len.take i).count l := by
  rw [codeOf, canonicalCodes, nextCodes_eq_map, assignCodes_getD hi hl (by simp; omega)]
  simp [List.getD_eq_getElem?_getD, show l < 16 by omega]

/-- Codes of equal length rise with the symbol. -/
theorem codeOf_lt_codeOf {len : List Nat} {i j l : Nat} (hi : len[i]? = some l) (hj : len[j]? = some l) (hl : 0 < l)
    (hl15 : l ≤ 15) (hij : i < j) : codeOf len i < codeOf len j := by
  obtain ⟨hlt, hget⟩ := List.getElem?_eq_some_iff.mp hi
  have hcount : (len.take (i + 1)).count l ≤ (len.take j).count l :=
    (List.take_prefix_take_left hij).sublist.count_le l
  rw [List.take_succ_eq_append_getElem hlt, List.count_append, hget] at hcount
  rw [codeOf_eq hi hl hl15, codeOf_eq hj hl hl15]
  simp at hcount
  omega

/-- A code lies below the end of the codes of its length. -/
theorem codeOf_lt_codesEnd {len : List Nat} {i l : Nat} (hi : len[i]? = some l) (hl : 0 < l) (hl15 : l ≤ 15) :
    codeOf len i < codesEnd len l := by
  obtain ⟨hlt, hget⟩ := List.getElem?_eq_some_iff.mp hi
  have hcount : (len.take (i + 1)).count l ≤ len.count l := (List.take_sublist _ _).count_le l
  rw [List.take_succ_eq_append_getElem hlt, List.count_append, hget] at hcount
  obtain ⟨k, rfl⟩ := Nat.exists_eq_add_of_lt hl
  rw [codeOf_eq hi hl hl15, Nat.zero_add, codesEnd_succ]
  simp at hcount ⊢
  omega

/-- The high bits of a longer code lie past the codes of so many bits. -/
theorem codesEnd_le_codeOf_div {len : List Nat} {j l d : Nat} (hj : len[j]? = some l) (hl15 : l ≤ 15) (hd : d < l) :
    codesEnd len d ≤ codeOf len j / 2 ^ (l - d) := by
  have hshort := codesEnd_mul_two_pow_le len d (l - 1 - d)
  rw [Nat.add_sub_cancel' (by omega)] at hshort
  rw [Nat.le_div_iff_mul_le (Nat.two_pow_pos _), codeOf_eq hj (by omega) hl15, show l - d = l - 1 - d + 1 by omega,
    Nat.pow_succ, ← Nat.mul_assoc]
  omega

theorem codeOf_lt_two_pow {len : List Nat} (h : ValidLengths len) {i l : Nat} (hi : len[i]? = some l) (hl : 0 < l) :
    codeOf len i < 2 ^ l :=
  have hl15 := h.1 l (List.mem_of_getElem? hi)
  (codeOf_lt_codesEnd hi hl hl15).trans_le (codesEnd_le_two_pow h hl15)

/-- No code of at most as many bits begins another symbol's code, by the numbers. -/
theorem codeOf_div_ne {len : List Nat} (h : ValidLengths len) {i j li lj : Nat} (hi : len[i]? = some li)
    (hj : len[j]? = some lj) (hli : 0 < li) (hij : i ≠ j) (hle : li ≤ lj) : codeOf len j / 2 ^ (lj - li) ≠ codeOf len i := by
  have hli15 := h.1 li (List.mem_of_getElem? hi)
  have hlj15 := h.1 lj (List.mem_of_getElem? hj)
  obtain hlt | rfl := Nat.lt_or_eq_of_le hle
  · exact ((codeOf_lt_codesEnd hi hli hli15).trans_le (codesEnd_le_codeOf_div hj hlj15 hlt)).ne'
  · rw [Nat.sub_self, Nat.pow_zero, Nat.div_one]
    obtain hlt | hgt := Nat.lt_or_gt_of_ne hij
    · exact (codeOf_lt_codeOf hi hj hli hli15 hlt).ne'
    · exact (codeOf_lt_codeOf hj hi hli hli15 hgt).ne

/-- Settles O29: in stream order the first bits of a code are its high bits, which tell it from every shorter code. -/
theorem canonicalCodesArePrefixFree : Obligations.CanonicalCodesArePrefixFree := by
  rintro len i j li lj ri rj h ⟨hi, hli, rfl⟩ ⟨hj, hlj, rfl⟩
  refine ⟨codeOf_lt_two_pow h hi hli, fun hij hle heq => codeOf_div_ne h hi hj hli hij hle ?_⟩
  have hlt : codeOf len j / 2 ^ (lj - li) < 2 ^ li := by
    rw [Nat.div_lt_iff_lt_mul (Nat.two_pow_pos _), ← Nat.pow_add, Nat.add_sub_cancel' hle]
    exact codeOf_lt_two_pow h hj hlj
  rw [revBits_mod_two_pow hle] at heq
  exact revBits_inj hlt (codeOf_lt_two_pow h hi hli) heq

end Sys2Proof.Proofs
end

section
/-! SUPPORT. decode (42_huffman.md R270): over codes of which none begins another its answer is the one code that the bits begin
with. -/

namespace Sys2Proof.Proofs

open Sys2Proof.Machine Sys2Proof.Claims

/-! The code words of a vector. -/

/-- The code words of a vector are its symbols with their codes, in the statements' words. -/
theorem mem_codeWords {len : List Nat} {w : CodeWord} : w ∈ codeWords len ↔ IsCode len w.sym w.len w.rev := by
  constructor
  · intro h
    obtain ⟨⟨⟨l, code⟩, i⟩, hmem, rfl⟩ := List.mem_map.mp h
    obtain ⟨hmem, hl⟩ := List.mem_filter.mp hmem
    obtain ⟨hi, hcode⟩ := List.getElem?_zip_eq_some.mp (List.mem_zipIdx_iff_getElem?.mp hmem)
    exact ⟨hi, of_decide_eq_true hl, by simp [List.getD_eq_getElem?_getD, hcode]⟩
  · intro ⟨hi, hl, hrev⟩
    have hcode : (canonicalCodes len)[w.sym]? = some (codeOf len w.sym) := by
      have hlt : w.sym < (canonicalCodes len).length := by
        rw [length_canonicalCodes]; exact (List.getElem?_eq_some_iff.mp hi).1
      simp [codeOf, List.getD_eq_getElem?_getD, List.getElem?_eq_getElem hlt]
    refine List.mem_map.mpr ⟨((w.len, codeOf len w.sym), w.sym), List.mem_filter.mpr
      ⟨List.mem_zipIdx_iff_getElem?.mpr (List.getElem?_zip_eq_some.mpr ⟨hi, hcode⟩), decide_eq_true hl⟩, ?_⟩
    rw [← hrev]

theorem within_iff {w : CodeWord} {b c : Nat} : w.within b c = true ↔ w.len ≤ c ∧ b % 2 ^ w.len = w.rev := by
  simp [CodeWord.within]

theorem beyond_iff {w : CodeWord} {b c : Nat} : w.beyond b c = true ↔ c < w.len ∧ w.rev % 2 ^ c = b % 2 ^ c := by
  simp [CodeWord.beyond]

/-- No code word begins another. -/
def PrefixFree (ws : List CodeWord) : Prop := ∀ v ∈ ws, ∀ w ∈ ws, v.len ≤ w.len → w.rev % 2 ^ v.len = v.rev → v = w

theorem isCode_inj {len : List Nat} {i l l' r r' : Nat} (h : IsCode len i l r) (h' : IsCode len i l' r') : l = l' ∧ r = r' := by
  obtain ⟨hi, -, hr⟩ := h
  obtain ⟨hi', -, hr'⟩ := h'
  obtain rfl := Option.some.inj (hi.symm.trans hi')
  exact ⟨rfl, hr.trans hr'.symm⟩

theorem prefixFree_codeWords {len : List Nat} (h : ValidLengths len) : PrefixFree (codeWords len) := by
  intro v hv w hw hle heq
  rw [mem_codeWords] at hv hw
  have hsym : v.sym = w.sym := by
    by_contra hne
    exact (canonicalCodesArePrefixFree len _ _ _ _ _ _ h hv hw).2 hne hle heq
  cases v
  cases w
  obtain rfl := hsym
  obtain ⟨rfl, rfl⟩ := isCode_inj hv hw
  rfl

/-- Bits that agree further on agree before. -/
theorem mod_two_pow_eq_of_le {x y m n : Nat} (hmn : m ≤ n) (h : x % 2 ^ n = y % 2 ^ n) : x % 2 ^ m = y % 2 ^ m :=
  Nat.ModEq.of_dvd (Nat.pow_dvd_pow 2 hmn) h

section
variable {ws : List CodeWord} (hfree : PrefixFree ws)
include hfree

/-- The bits begin with at most one code word. -/
theorem PrefixFree.eq_of_within {v w : CodeWord} {b c : Nat} (hv : v ∈ ws) (hw : w ∈ ws) (hvb : v.within b c = true)
    (hwb : w.within b c = true) : v = w := by
  rw [within_iff] at hvb hwb
  obtain hle | hle := Nat.le_total v.len w.len
  · refine hfree v hv w hw hle ?_
    rw [← hwb.2, Nat.mod_mod_of_dvd _ (Nat.pow_dvd_pow 2 hle), hvb.2]
  · refine (hfree w hw v hv hle ?_).symm
    rw [← hvb.2, Nat.mod_mod_of_dvd _ (Nat.pow_dvd_pow 2 hle), hwb.2]

/-- Bits that are only the start of a code word do not begin with another one. -/
theorem PrefixFree.not_within_of_beyond {v w : CodeWord} {b c : Nat} (hv : v ∈ ws) (hw : w ∈ ws) (hwb : w.beyond b c = true) :
    v.within b c = false := by
  rw [beyond_iff] at hwb
  rw [Bool.eq_false_iff]
  intro hvb
  rw [within_iff] at hvb
  have hvw : v = w := hfree v hv w hw (hvb.1.trans hwb.1.le) ((mod_two_pow_eq_of_le hvb.1 hwb.2).trans hvb.2)
  rw [hvw] at hvb
  omega

theorem PrefixFree.find?_within {w : CodeWord} {b c : Nat} (hw : w ∈ ws) (hwb : w.within b c = true) :
    ws.find? (fun v => v.within b c) = some w := by
  obtain ⟨v, hv⟩ := Option.isSome_iff_exists.mp (List.find?_isSome (p := fun v => CodeWord.within v b c).mpr ⟨w, hw, hwb⟩)
  rw [hv, hfree.eq_of_within (List.mem_of_find?_eq_some hv) hw (List.find?_some hv :) hwb]

theorem decodeBits_of_within {w : CodeWord} {b c : Nat} (hw : w ∈ ws) (hwb : w.within b c = true) :
    decodeBits ws b c = .symbol w.sym w.len := by
  rw [decodeBits, hfree.find?_within hw hwb]

end

theorem decodeBits_of_not_within {ws : List CodeWord} {b c : Nat} (h : ∀ w ∈ ws, w.within b c = false) :
    decodeBits ws b c = if ws.any (fun w => w.beyond b c) then .needMore else .invalid := by
  rw [decodeBits, List.find?_eq_none.mpr fun w hw => by simp [h w hw]]

/-! HUF_DECODE (R272). -/

theorem exec_hufDecode (k : Fin 4) (s : State) : exec (.hufDecode k) s = runCmd (do
    deny (decide (32 < s.args.a1.toNat)) .badCount s.args.a1.toNat
    finishDecode (decodeBits (codeWords ((s.slots.get k).len.take (s.slots.get k).n)) s.args.a0.toNat s.args.a1.toNat)) s := rfl

/-- Settles O31: the answer of decode over the codes of the slot's lengths, of which none begins another. -/
theorem hufDecodeFollowsTheCodes : Obligations.HufDecodeFollowsTheCodes := by
  rintro s k len b c rfl rfl rfl
  rw [exec_hufDecode]
  generalize (s.slots.get k).len.take (s.slots.get k).n = len, s.args.a0.toNat = b
  refine ⟨fun hc => ?_, fun hc hvalid => ?_⟩
  · rw [decide_eq_true hc, runCmd_of_raise (bind_of_raise (deny_true _ _ _)), ofNat_toNat_word]
    rfl
  rw [decide_eq_false (Nat.not_lt.mpr hc), runCmd_congr (bind_ok (deny_false _ _ _))]
  generalize s.args.a1.toNat = c
  refine ⟨fun i l r hcode hl hr => ?_, fun hnone => ?_⟩
  · have hdec : decodeBits (codeWords len) b c = .symbol i l :=
      decodeBits_of_within (prefixFree_codeWords hvalid) (w := ⟨i, l, r⟩) (mem_codeWords.mpr hcode) (within_iff.mpr ⟨hl, hr⟩)
    rw [hdec]
    exact runCmd_of_finish (finish_run _ _ _ _) rfl
  · have hdec : decodeBits (codeWords len) b c =
        if (codeWords len).any (fun w => w.beyond b c) then .needMore else .invalid :=
      decodeBits_of_not_within fun w hw => by
        rw [Bool.eq_false_iff]
        intro hwb
        exact hnone ⟨_, _, _, mem_codeWords.mp hw, within_iff.mp hwb⟩
    have hany : (codeWords len).any (fun w => w.beyond b c) = true ↔
        ∃ i l r, IsCode len i l r ∧ c < l ∧ r % 2 ^ c = b % 2 ^ c := by
      rw [List.any_eq_true]
      exact ⟨fun ⟨w, hw, hwb⟩ => ⟨_, _, _, mem_codeWords.mp hw, beyond_iff.mp hwb⟩,
        fun ⟨i, l, r, hcode, hbeyond⟩ => ⟨⟨i, l, r⟩, mem_codeWords.mpr hcode, beyond_iff.mpr hbeyond⟩⟩
    refine ⟨fun hmore => ?_, fun hmore => ?_⟩
    · rw [hdec, if_pos (hany.mpr hmore)]
      exact runCmd_of_finish (finish_run _ _ _ _) rfl
    · rw [hdec, if_neg (mt hany.mp hmore)]
      exact runCmd_of_raise rfl

end Sys2Proof.Proofs
end

section
/-! SUPPORT. HUF_CODES (42_huffman.md R261). -/

namespace Sys2Proof.Proofs

open Sys2Proof.Machine Sys2Proof.Claims

theorem badLength_eq_some {len : List Nat} {i : Nat} (hi : 15 < len.getD i 0) (hbelow : ∀ j < i, len.getD j 0 ≤ 15) :
    badLength len = some i := by
  have hlt : i < len.length := by
    by_contra hge
    simp [List.getD_eq_getElem?_getD, List.getElem?_eq_none (Nat.le_of_not_lt hge)] at hi
  refine List.findIdx?_eq_some_iff_getElem.mpr ⟨hlt, ?_, fun j hj => ?_⟩
  · simpa [List.getD_eq_getElem?_getD, hlt] using hi
  · simpa [List.getD_eq_getElem?_getD, hj.trans hlt] using hbelow j hj

theorem badLength_eq_none {len : List Nat} (h : ∀ l ∈ len, l ≤ 15) : badLength len = none := by
  simpa [badLength] using h

section
variable {len : List Nat}

theorem checkLengths_of_bad {i : Nat} (hi : 15 < len.getD i 0) (hbelow : ∀ j < i, len.getD j 0 ≤ 15) (s : State) :
    checkLengths len s = (Cause.badLength.raise i : Cmd Unit) s := by
  rw [checkLengths, badLength_eq_some hi hbelow]

theorem checkLengths_of_oversubscribed (hl : ∀ l ∈ len, l ≤ 15) (hk : 2 ^ 15 < kraft len) (s : State) :
    checkLengths len s = (Cause.oversubscribed.raise (kraft len) : Cmd Unit) s := by
  rw [checkLengths, badLength_eq_none hl, decide_eq_true hk]
  rfl

theorem checkLengths_of_valid (hl : ∀ l ∈ len, l ≤ 15) (hk : kraft len ≤ 2 ^ 15) (s : State) :
    checkLengths len s = .ok () s := by
  rw [checkLengths, badLength_eq_none hl, decide_eq_false (Nat.not_lt.mpr hk)]
  rfl

end

/-- The bytes that HUF_CODES writes. -/
def codeBytes (reverse : Bool) (len : List Nat) : List Byte :=
  (len.zip (canonicalCodes len)).flatMap fun e => bytes16 (codeEntry reverse e.1 e.2)

theorem length_codeBytes (reverse : Bool) (len : List Nat) : (codeBytes reverse len).length = 2 * len.length := by
  simp [codeBytes, List.length_flatMap, bytes16, Nat.mul_comm]

/-- They are the record of the entries, each of 2 bytes. -/
theorem codeBytes_eq_layout (reverse : Bool) (len : List Nat) :
    codeBytes reverse len = layout ((len.zip (canonicalCodes len)).map fun e =>
      (2, if e.1 = 0 then 0 else if reverse then revBits e.1 e.2 else e.2)) := by
  simp [codeBytes, layout, List.flatMap_map, bytes16, codeEntry, List.range_succ_eq_map]

/-- What HUF_CODES does with the lengths it has read. -/
def finishCodes (reverse : Bool) (o : Nat) (len : List Nat) : Cmd Finish := do
  checkLengths len
  memWrite o (codeBytes reverse len)
  finish .ok (usedCount len) (kraft len)

theorem exec_hufCodes (reverse : Bool) (s : State) : exec (.hufCodes reverse) s = runCmd (do
    deny (decide (288 < s.args.a1.toNat)) .badCount s.args.a1.toNat
    readBeforeWrite s.args.a0.toNat s.args.a1.toNat s.args.a2.toNat (2 * s.args.a1.toNat) fun bytes =>
      finishCodes reverse s.args.a2.toNat (bytes.map BitVec.toNat)) s := rfl

/-- Settles O28: with its checks passed HUF_CODES goes on with the lengths read, which it checks before it writes. -/
theorem hufCodesWritesCodes : Obligations.HufCodesWritesCodes := by
  intro s reverse len kraftSum hwf hn hin hout hapart hlen hkraft
  rw [scaledKraft_eq_kraft] at hkraft
  subst hkraft
  have hlength : len.length = s.args.a1.toNat := by simp [hlen]
  have hexec : exec (.hufCodes reverse) s = runCmd (finishCodes reverse s.args.a2.toNat len) s := by
    rw [exec_hufCodes, decide_eq_false (Nat.not_lt.mpr hn), runCmd_congr (bind_ok (deny_false _ _ _)),
      runCmd_congr (readBeforeWrite_of_apart _ hin hout hapart), ← hlen]
  rw [hexec, finishCodes]
  refine ⟨fun i hi hbelow => ?_, fun hl hk => ?_, fun hl hk => ?_⟩
  · exact runCmd_of_raise (bind_of_raise (checkLengths_of_bad hi hbelow s))
  · exact runCmd_of_raise (bind_of_raise (checkLengths_of_oversubscribed hl hk s))
  · rw [← hlength, ← length_codeBytes reverse] at hout
    rw [runCmd_congr (bind_ok (checkLengths_of_valid hl hk s)), ← codeBytes_eq_layout]
    exact runCmd_memWrite_finish hwf hout _ _

end Sys2Proof.Proofs
end

section
/-! SUPPORT. The depths of a minimum-redundancy code (42_huffman.md R254): whatever the frequencies, the merge makes a full
binary tree, so that the leaves' depths fill the code space. The nodes are numbered in the order in which the merge makes
them. -/

namespace Sys2Proof.Proofs

open Sys2Proof.Machine

/-! Phase 1: the parents of the first nodes. -/

/-- `par` gives each node below `n` a later parent, in order, and no parent has more than two children. -/
structure IsForest (par : Nat → Nat) (n : Nat) : Prop where
  later : ∀ i < n, i < par i
  mono : ∀ i j, i ≤ j → j < n → par i ≤ par j
  two : ∀ i, i + 2 < n → par i < par (i + 2)

/-- The node `n` gets a parent `v` of which at most the node before it is a child already. -/
theorem IsForest.extend {par par' : Nat → Nat} {n v : Nat} (h : IsForest par n) (hsame : ∀ i < n, par' i = par i)
    (hnew : par' n = v) (hlater : n < v) (hle : ∀ i < n, par i ≤ v) (hlt : ∀ i, i + 1 < n → par i < v) :
    IsForest par' (n + 1) where
  later i hi := by
    obtain hi | rfl := Nat.lt_succ_iff_lt_or_eq.mp hi
    · rw [hsame i hi]; exact h.later i hi
    · rwa [hnew]
  mono i j hij hj := by
    obtain hj | rfl := Nat.lt_succ_iff_lt_or_eq.mp hj
    · rw [hsame i (hij.trans_lt hj), hsame j hj]; exact h.mono i j hij hj
    · obtain hi | rfl := Nat.lt_or_eq_of_le hij
      · rw [hsame i hi, hnew]; exact hle i hi
      · exact le_rfl
  two i hi := by
    obtain hi | rfl := Nat.lt_succ_iff_lt_or_eq.mp hi
    · rw [hsame i (by omega), hsame (i + 2) hi]; exact h.two i hi
    · rw [hsame i (by omega), hnew]; exact hlt i (by omega)

theorem IsForest.congr {par par' : Nat → Nat} {n : Nat} (h : IsForest par n) (hsame : ∀ i < n, par' i = par i) :
    IsForest par' n where
  later i hi := by rw [hsame i hi]; exact h.later i hi
  mono i j hij hj := by rw [hsame i (hij.trans_lt hj), hsame j hj]; exact h.mono i j hij hj
  two i hi := by rw [hsame i (by omega), hsame (i + 2) hi]; exact h.two i hi

/-- Two children to a parent: `2k` nodes further on the parent is at least `k` further on. -/
theorem IsForest.spaced {par : Nat → Nat} {n : Nat} (h : IsForest par n) (i k : Nat) (hi : i + 2 * k < n) :
    par i + k ≤ par (i + 2 * k) := by
  induction k with
  | zero => exact le_rfl
  | succ k ih =>
    have := ih (by omega)
    have := h.two (i + 2 * k) (by omega)
    rw [show i + 2 * (k + 1) = i + 2 * k + 2 by omega]
    omega

/-- The node at the root pointer becomes a child of the node being made. -/
def takeNode (t : Merge) (next x : Nat) : Merge :=
  { t with a := (t.a.set next x).set t.root next, root := t.root + 1 }

/-- The leaf at the leaf pointer becomes a child of the node being made. -/
def takeLeaf (t : Merge) (next x : Nat) : Merge := { t with a := t.a.set next x, leaf := t.leaf + 1 }

theorem mergeFirst_cases (m : Nat) (t : Merge) (next : Nat) :
    (∃ x, mergeFirst m t next = takeNode t next x) ∨ t.leaf < m ∧ ∃ x, mergeFirst m t next = takeLeaf t next x := by
  rw [mergeFirst]
  split
  · exact .inl ⟨_, rfl⟩
  · exact .inr ⟨by omega, _, rfl⟩

theorem mergeSecond_cases (m : Nat) (t : Merge) (next : Nat) :
    ((m ≤ t.leaf ∨ t.root < next) ∧ ∃ x, mergeSecond m t next = takeNode t next x) ∨
      t.leaf < m ∧ ∃ x, mergeSecond m t next = takeLeaf t next x := by
  rw [mergeSecond]
  split
  · next h => exact .inl ⟨h.imp_right And.left, _, rfl⟩
  · exact .inr ⟨by omega, _, rfl⟩

/-- The merge with the nodes up to `next` made, or one in the making: `c` nodes and leaves are taken, and the taken nodes have
their parents. -/
structure Merging (m next c : Nat) (t : Merge) : Prop where
  length : t.a.length = m
  taken : t.root + t.leaf = c
  leaf_le : t.leaf ≤ m
  root_le : t.root ≤ next
  forest : IsForest (t.a.getD · 0) t.root
  parent_le : ∀ i < t.root, t.a.getD i 0 ≤ next

theorem getD_set_ne {α : Type} {a : List α} {i j : Nat} {x y : α} (h : i ≠ j) : (a.set i x).getD j y = a.getD j y := by
  simp [List.getD_eq_getElem?_getD, List.getElem?_set_ne h]

theorem getD_set_self {α : Type} {a : List α} {i : Nat} {x y : α} (h : i < a.length) : (a.set i x).getD i y = x := by
  simp [List.getD_eq_getElem?_getD, h]

section
variable {m next c : Nat} {t : Merge} (h : Merging m next c t) (hnext : next < m)
  (hlt : ∀ i, i + 1 < t.root → t.a.getD i 0 < next) (x : Nat)
include h

theorem Merging.leafTaken (hleaf : t.leaf < m) : Merging m next (c + 1) (takeLeaf t next x) := by
  obtain ⟨hlength, htaken, -, hroot, hforest, hparent⟩ := h
  have hsame : ∀ i < t.root, (t.a.set next x).getD i 0 = t.a.getD i 0 := fun i hi => getD_set_ne (by omega)
  exact ⟨by rw [takeLeaf, List.length_set, hlength], by rw [← htaken]; rfl, hleaf, hroot, hforest.congr hsame,
    fun i hi => (hsame i hi).trans_le (hparent i hi)⟩

include hnext hlt

theorem Merging.nodeTaken (hroot : t.root < next) : Merging m next (c + 1) (takeNode t next x) := by
  obtain ⟨hlength, htaken, hleaf, -, hforest, hparent⟩ := h
  have hsame : ∀ i < t.root, ((t.a.set next x).set t.root next).getD i 0 = t.a.getD i 0 := fun i hi => by
    rw [getD_set_ne (by omega), getD_set_ne (by omega)]
  have hnew : ((t.a.set next x).set t.root next).getD t.root 0 = next := getD_set_self (by rw [List.length_set]; omega)
  refine ⟨by simp [takeNode, hlength], htaken ▸ Nat.add_right_comm t.root 1 t.leaf, hleaf, hroot,
    hforest.extend hsame hnew hroot hparent hlt, fun i hi => ?_⟩
  obtain hi | rfl := Nat.lt_succ_iff_lt_or_eq.mp hi
  · exact (hsame i hi).trans_le (hparent i hi)
  · exact hnew.le

end

/-- One node of the merge: its two children are taken. -/
theorem Merging.step {m next : Nat} {t : Merge} (h : Merging m next (2 * (next + 1)) t) (hnext : next + 2 < m) :
    Merging m (next + 1) (2 * (next + 2)) (mergeSecond m (mergeFirst m t (next + 1)) (next + 1)) := by
  have hparent : ∀ i < t.root, t.a.getD i 0 < next + 1 := fun i hi => Nat.lt_succ_of_le (h.parent_le i hi)
  have hstart : Merging m (next + 1) (2 * (next + 1)) t :=
    ⟨h.length, h.taken, h.leaf_le, h.root_le.trans (Nat.le_succ _), h.forest, fun i hi => (hparent i hi).le⟩
  have hroot : t.root < next + 1 := Nat.lt_succ_of_le h.root_le
  have hfirst : Merging m (next + 1) (2 * (next + 1) + 1) (mergeFirst m t (next + 1)) ∧
      ∀ i, i + 1 < (mergeFirst m t (next + 1)).root → (mergeFirst m t (next + 1)).a.getD i 0 < next + 1 := by
    obtain ⟨x, heq⟩ | ⟨hleaf, x, heq⟩ := mergeFirst_cases m t (next + 1)
    · rw [heq]
      refine ⟨hstart.nodeTaken (by omega) (fun i hi => hparent i (by omega)) x hroot, fun i hi => ?_⟩
      have hi : i < t.root := Nat.succ_lt_succ_iff.mp hi
      rw [takeNode, getD_set_ne (by omega), getD_set_ne (by omega)]
      exact hparent i hi
    · rw [heq]
      refine ⟨hstart.leafTaken x hleaf, fun i hi => ?_⟩
      have hi : i + 1 < t.root := hi
      rw [takeLeaf, getD_set_ne (by omega)]
      exact hparent i (by omega)
  obtain ⟨hfirst, hlt⟩ := hfirst
  generalize mergeFirst m t (next + 1) = u at hfirst hlt ⊢
  obtain ⟨hcase, x, heq⟩ | ⟨hleaf, x, heq⟩ := mergeSecond_cases m u (next + 1)
  · have htaken := hfirst.taken
    rw [heq]
    exact hfirst.nodeTaken (by omega) hlt x (by omega)
  · rw [heq]
    exact hfirst.leafTaken x hleaf

/-- Phase 1 gives every node but the last a later parent, at most two to each. -/
theorem mergeTree_isForest {freqs : List Nat} (hm : 2 ≤ freqs.length) :
    (mergeTree freqs).length = freqs.length ∧ IsForest ((mergeTree freqs).getD · 0) (freqs.length - 2) ∧
      ∀ i < freqs.length - 2, (mergeTree freqs).getD i 0 ≤ freqs.length - 2 := by
  have hloop (k : Nat) (hk : k + 2 ≤ freqs.length) : Merging freqs.length k (2 * (k + 1))
      ((List.range' 1 k).foldl (fun t next => mergeSecond freqs.length (mergeFirst freqs.length t next) next)
        { a := freqs.set 0 (freqs.getD 0 0 + freqs.getD 1 0), root := 0, leaf := 2 }) := by
    induction k with
    | zero =>
      exact ⟨List.length_set, rfl, hm, le_rfl, ⟨fun i hi => absurd hi (Nat.not_lt_zero i),
        fun i j _ hj => absurd hj (Nat.not_lt_zero j), fun i hi => absurd hi (Nat.not_lt_zero _)⟩,
        fun i hi => absurd hi (Nat.not_lt_zero i)⟩
    | succ k ih =>
      rw [List.range'_1_concat, List.foldl_concat, Nat.add_comm 1 k]
      exact (ih (by omega)).step (by omega)
  obtain ⟨hlength, htaken, hleaf, hroot, hforest, hparent⟩ := hloop (freqs.length - 2) (by omega)
  change (mergeTree freqs).length = _ at hlength
  rw [show (Merge.root _) = freqs.length - 2 by omega] at hforest hparent
  exact ⟨hlength, hforest, hparent⟩

/-! Phase 2: the depths of the nodes. -/

/-- `depth` gives the last node `n` depth 0 and every other one a depth one more than its parent's. -/
structure IsDepth (par depth : Nat → Nat) (n : Nat) : Prop where
  forest : IsForest par n
  par_le : ∀ i < n, par i ≤ n
  root : depth n = 0
  child : ∀ i < n, depth i = depth (par i) + 1

/-- A later node lies no deeper. -/
theorem IsDepth.antitone {par depth : Nat → Nat} {n i j : Nat} (h : IsDepth par depth n) (hij : i ≤ j) (hj : j ≤ n) :
    depth j ≤ depth i := by
  induction hd : n - i using Nat.strong_induction_on generalizing i j with
  | _ d ih =>
    obtain hj | rfl := Nat.lt_or_eq_of_le hj
    · have hlater := h.forest.later i (by omega)
      have hparent := ih (n - par i) (by omega) (h.forest.mono i j hij hj) (h.par_le j hj) rfl
      rw [h.child i (by omega), h.child j hj]
      omega
    · rw [h.root]; exact Nat.zero_le _

/-- A pass of phase 2 that has come down to `k` has the depths from there on and the parents below. -/
theorem nodeDepths_pass {par : Nat → Nat} {n k : Nat} (hlater : ∀ i < n, i < par i) (hk : k ≤ n)
    {b : List Nat} (hn : n < b.length) (hroot : b.getD n 0 = 0)
    (hdepth : ∀ i, k ≤ i → i < n → b.getD i 0 = b.getD (par i) 0 + 1)
    (hparent : ∀ i < k, b.getD i 0 = par i) {b' : List Nat}
    (hb' : b' = (List.range k).reverse.foldl (fun a next => a.set next (a.getD (a.getD next 0) 0 + 1)) b) :
    b'.length = b.length ∧ b'.getD n 0 = 0 ∧ ∀ i < n, b'.getD i 0 = b'.getD (par i) 0 + 1 := by
  induction k generalizing b with
  | zero =>
    subst hb'
    exact ⟨rfl, hroot, fun i hi => hdepth i (Nat.zero_le i) hi⟩
  | succ k ih =>
    rw [List.range_succ, List.reverse_concat, List.foldl_cons, hparent k (by omega)] at hb'
    have hrest := ih (b := b.set k (b.getD (par k) 0 + 1)) (by omega) (by rwa [List.length_set])
      (by rwa [getD_set_ne (by omega)]) (fun i hki hi => ?_)
      (fun i hi => by rw [getD_set_ne (by omega)]; exact hparent i (by omega)) hb'
    · rwa [List.length_set] at hrest
    · have := hlater i hi
      rw [getD_set_ne (j := par i) (by omega)]
      obtain hlt | rfl := Nat.lt_or_eq_of_le hki
      · rw [getD_set_ne (by omega)]; exact hdepth i (by omega) hi
      · exact getD_set_self (by omega)

/-- Phase 2 turns the parents into depths. -/
theorem isDepth_nodeDepths {a : List Nat} {n : Nat} (hn : a.length = n + 2) (hforest : IsForest (a.getD · 0) n)
    (hle : ∀ i < n, a.getD i 0 ≤ n) :
    (nodeDepths a).length = n + 2 ∧ IsDepth (a.getD · 0) ((nodeDepths a).getD · 0) n := by
  have hsub : a.length - 2 = n := by omega
  obtain ⟨hlength, hroot, hchild⟩ := nodeDepths_pass (b := a.set n 0) hforest.later le_rfl (by simp [hn])
    (getD_set_self (by omega)) (fun i hki hi => absurd hi (Nat.not_lt.mpr hki)) (fun i hi => getD_set_ne (by omega))
    (b' := nodeDepths a) (by rw [nodeDepths, hsub])
  exact ⟨by rw [hlength, List.length_set, hn], hforest, hle, hroot, hchild⟩

/-! Phase 3: the depths of the leaves. -/

/-- The part of the code space that codes of the given lengths take. -/
def spaceTaken (depths : List Nat) : ℚ := (depths.map fun d => (1 / 2 : ℚ) ^ d).sum

theorem spaceTaken_replicate_append (k d : Nat) (depths : List Nat) :
    spaceTaken (List.replicate k d ++ depths) = k * (1 / 2) ^ d + spaceTaken depths := by
  simp [spaceTaken]

/-- The nodes counted are those of depth `d` just below `r`. -/
theorem nodesAtDepth_spec (a : List Nat) (d r : Nat) :
    (nodesAtDepth a d r).1 + (nodesAtDepth a d r).2 = r ∧
    (∀ i, (nodesAtDepth a d r).2 ≤ i → i < r → a.getD i 0 = d) ∧
    (0 < (nodesAtDepth a d r).2 → a.getD ((nodesAtDepth a d r).2 - 1) 0 ≠ d) := by
  induction r with
  | zero => exact ⟨rfl, fun i _ hi => absurd hi (Nat.not_lt_zero i), fun h => absurd h (lt_irrefl 0)⟩
  | succ r ih =>
    obtain ⟨hsum, hdepth, hnext⟩ := ih
    rw [nodesAtDepth]
    split
    · next hr =>
      refine ⟨by dsimp only; omega, fun i hi hir => ?_, hnext⟩
      obtain hir | rfl := Nat.lt_succ_iff_lt_or_eq.mp hir
      · exact hdepth i hi hir
      · exact hr
    · next hr => exact ⟨Nat.zero_add _, fun i hi hir => absurd hir (Nat.not_lt.mpr hi), fun _ => hr⟩

/-- The entries filled are those of the given number just below `next`. -/
theorem fillDepth_spec (d k next : Nat) (a : List Nat) (hk : k ≤ next) (hnext : next ≤ a.length) :
    (fillDepth d k next a).length = a.length ∧
    (∀ i < next - k, (fillDepth d k next a).getD i 0 = a.getD i 0) ∧
    (fillDepth d k next a).drop (next - k) = List.replicate k d ++ a.drop next := by
  induction k generalizing next a with
  | zero => exact ⟨rfl, fun i _ => rfl, rfl⟩
  | succ k ih =>
    obtain ⟨next, rfl⟩ := Nat.exists_eq_add_of_le' (Nat.lt_of_lt_of_le k.succ_pos hk)
    obtain ⟨hlength, hsame, hdrop⟩ := ih next (a.set next d) (by omega) (by rw [List.length_set]; omega)
    rw [fillDepth, Nat.add_sub_cancel, Nat.add_sub_add_right]
    refine ⟨by rw [hlength, List.length_set], fun i hi => by rw [hsame i hi, getD_set_ne (by omega)], ?_⟩
    rw [hdrop, List.drop_set, if_neg (lt_irrefl _), List.drop_eq_getElem_cons (Nat.lt_of_succ_le hnext), Nat.sub_self,
      List.set_cons_zero, List.replicate_succ', List.append_assoc, List.singleton_append]

/-- Phase 3 between two levels: the nodes below `root` remain, the leaves from `next` on have their depths, and `avbl` places of
the present depth are left for nodes and leaves. -/
structure Leveling (depthOf : Nat → Nat) (n avbl depth root next : Nat) (a : List Nat) : Prop where
  length : a.length = n + 2
  next_le : next ≤ n + 2
  places : avbl + root = next
  nodes : ∀ i < root, a.getD i 0 = depthOf i
  below : ∀ i < root, depth ≤ depthOf i
  root_le : root ≤ n + 1
  above : ∀ i, root ≤ i → i ≤ n → depthOf i < depth
  room : ∀ i < root, depthOf i = depth → root ≤ i + avbl
  start : depth = 0 → root = n + 1 ∧ avbl = 1
  space : spaceTaken (a.drop next) + avbl * (1 / 2) ^ depth = 1
  pos : ∀ x ∈ a.drop next, 0 < x

/-- The `u` nodes from `root'` on are the ones at the present depth, and those below lie deeper. -/
structure LevelNodes (depthOf : Nat → Nat) (depth root u root' : Nat) : Prop where
  sum : u + root' = root
  level : ∀ i, root' ≤ i → i < root → depthOf i = depth
  deeper : ∀ i < root', depth < depthOf i

section
variable {par depthOf : Nat → Nat} {n avbl depth root next : Nat} {a : List Nat} (hdepth : IsDepth par depthOf n)
  (h : Leveling depthOf n avbl depth root next a)
include hdepth h

/-- The highest node that remains lies at the present depth: its parent lies above. -/
theorem Leveling.depthOf_last (hroot : 0 < root) : depthOf (root - 1) = depth := by
  refine Nat.le_antisymm ?_ (h.below _ (by omega))
  have hle := h.root_le
  by_cases hlast : root - 1 = n
  · rw [hlast, hdepth.root]; exact Nat.zero_le _
  · have hlater := hdepth.forest.later (root - 1) (by omega)
    rw [hdepth.child _ (by omega)]
    exact h.above _ (by omega) (hdepth.par_le _ (by omega))

/-- With no place left no node is left. -/
theorem Leveling.root_eq_zero (havbl : avbl = 0) : root = 0 := by
  by_contra hroot
  have := h.room (root - 1) (by omega) (h.depthOf_last hdepth (by omega))
  omega

/-- With no place left every leaf has its depth. -/
theorem Leveling.done (havbl : avbl = 0) : a.length = n + 2 ∧ spaceTaken a = 1 ∧ ∀ x ∈ a, 0 < x := by
  have hnext : next = 0 := by rw [← h.places, h.root_eq_zero hdepth havbl, havbl]
  have hspace := h.space
  have hpos := h.pos
  rw [hnext, List.drop_zero] at hspace hpos
  rw [havbl, Nat.cast_zero, zero_mul, add_zero] at hspace
  exact ⟨h.length, hspace, hpos⟩

/-- Phase 3 counts the nodes of the present depth. -/
theorem Leveling.levelNodes :
    LevelNodes depthOf depth root (nodesAtDepth a depth root).1 (nodesAtDepth a depth root).2 := by
  obtain ⟨hsum, hat, hnext⟩ := nodesAtDepth_spec a depth root
  have hle := h.root_le
  generalize (nodesAtDepth a depth root).1 = u, (nodesAtDepth a depth root).2 = root' at hsum hat hnext ⊢
  refine ⟨hsum, fun i hi hir => by rw [← h.nodes i hir, hat i hi hir], fun i hi => ?_⟩
  have hlast : depthOf (root' - 1) ≠ depth := by rw [← h.nodes _ (by omega)]; exact hnext (by omega)
  have := h.below (root' - 1) (by omega)
  have := hdepth.antitone (i := i) (j := root' - 1) (by omega) (by omega)
  omega

section
variable {u root' : Nat} (hlevel : LevelNodes depthOf depth root u root')
include hlevel

theorem Leveling.lt_of_deeper {i : Nat} (hi : i < root') : i < n := by
  have hdeeper := hlevel.deeper i hi
  have hsum := hlevel.sum
  have hle := h.root_le
  refine Nat.lt_of_le_of_ne (by omega) fun heq => ?_
  rw [heq, hdepth.root] at hdeeper
  omega

omit hdepth in
theorem Leveling.level_le_avbl : u ≤ avbl := by
  have hsum := hlevel.sum
  by_cases hu : u = 0
  · omega
  · have := h.room root' (by omega) (hlevel.level root' le_rfl (by omega))
    omega

theorem Leveling.level_pos (hroot : 0 < root) : 0 < u := by
  have hsum := hlevel.sum
  by_contra hu
  exact (hlevel.deeper (root - 1) (by omega)).ne (h.depthOf_last hdepth hroot).symm

/-- A node of the next level is a child of one of this level. -/
theorem Leveling.parent_of_next {i : Nat} (hi : i < root') (hnext : depthOf i = depth + 1) :
    root' ≤ par i ∧ par i < root := by
  have hin := h.lt_of_deeper hdepth hlevel hi
  rw [hdepth.child i hin, Nat.add_right_cancel_iff] at hnext
  constructor
  · by_contra hlt
    exact (hlevel.deeper _ (by omega)).ne hnext.symm
  · by_contra hge
    exact (h.above _ (by omega) (hdepth.par_le i hin)).ne hnext

/-- The next level has at most two nodes for each of this one. -/
theorem Leveling.room_next {i : Nat} (hi : i < root') (hnext : depthOf i = depth + 1) : root' ≤ i + 2 * u := by
  by_contra hfar
  have hfar : i + 2 * u < root' := by omega
  have hfarn := h.lt_of_deeper hdepth hlevel hfar
  have hsum := hlevel.sum
  have hspaced := hdepth.forest.spaced i u hfarn
  have hshallow := hdepth.antitone (Nat.le_add_right i (2 * u)) hfarn.le
  have hdeeper := hlevel.deeper _ hfar
  have := (h.parent_of_next hdepth hlevel hi hnext).1
  have := (h.parent_of_next hdepth hlevel hfar (by omega)).2
  omega

/-- One level: the nodes at the present depth, and leaves at the places they leave. -/
theorem Leveling.step :
    Leveling depthOf n (2 * u) (depth + 1) root' (next - (avbl - u)) (fillDepth depth (avbl - u) next a) := by
  have hle := h.root_le
  have hplaces := h.places
  have hnext := h.next_le
  have hsum := hlevel.sum
  have havbl := h.level_le_avbl hlevel
  obtain ⟨hlength, hsame, hdrop⟩ := fillDepth_spec depth (avbl - u) next a (by omega) (by rwa [h.length])
  refine ⟨hlength.trans h.length, by omega, by omega, fun i hi => by rw [hsame i (by omega), h.nodes i (by omega)],
    hlevel.deeper, by omega, fun i hi hin => ?_, fun i hi hi1 => h.room_next hdepth hlevel hi hi1,
    fun h0 => absurd h0 (Nat.succ_ne_zero _), ?_, fun x hx => ?_⟩
  · by_cases hir : i < root
    · rw [hlevel.level i hi hir]; exact Nat.lt_succ_self _
    · exact (h.above i (by omega) hin).trans (Nat.lt_succ_self _)
  · rw [hdrop, spaceTaken_replicate_append, Nat.cast_sub havbl, pow_succ]
    push_cast
    linear_combination h.space
  · rw [hdrop] at hx
    obtain hx | hx := List.mem_append.mp hx
    · obtain ⟨hk, rfl⟩ := List.mem_replicate.mp hx
      refine Nat.pos_of_ne_zero fun h0 => ?_
      have := h.start h0
      have := h.level_pos hdepth hlevel (by omega)
      omega
    · exact h.pos x hx

end

end

/-- Phase 3 ends with every leaf's depth. -/
theorem leafDepths_spec {par depthOf : Nat → Nat} {n : Nat} (hdepth : IsDepth par depthOf n)
    {fuel avbl depth root next : Nat} {a : List Nat} (h : Leveling depthOf n avbl depth root next a)
    (hfuel : root < fuel ∨ avbl = 0) :
    (leafDepths fuel avbl depth root next a).length = n + 2 ∧ spaceTaken (leafDepths fuel avbl depth root next a) = 1 ∧
      ∀ x ∈ leafDepths fuel avbl depth root next a, 0 < x := by
  induction fuel generalizing avbl depth root next a with
  | zero => exact h.done hdepth (hfuel.resolve_left (Nat.not_lt_zero _))
  | succ fuel ih =>
    rw [leafDepths]
    split
    · next hdone => exact h.done hdepth hdone
    · next havbl =>
      have hlevel := h.levelNodes hdepth
      have hsum := hlevel.sum
      have hpos := h.level_pos hdepth hlevel
      exact ih (h.step hdepth hlevel) (by omega)

/-- For two or more frequencies the depths fill the code space, and none is 0 (R254). -/
theorem codeDepths_spec {freqs : List Nat} (hm : 2 ≤ freqs.length) :
    (codeDepths freqs).length = freqs.length ∧ spaceTaken (codeDepths freqs) = 1 ∧ ∀ x ∈ codeDepths freqs, 0 < x := by
  obtain ⟨n, hn⟩ := Nat.exists_eq_add_of_le' hm
  obtain ⟨hlength, hforest, hle⟩ := mergeTree_isForest hm
  rw [hn, Nat.add_sub_cancel] at hforest hle
  obtain ⟨hlength, hdepth⟩ := isDepth_nodeDepths (hlength.trans hn) hforest hle
  rw [codeDepths, hn]
  refine leafDepths_spec hdepth ⟨hlength, le_rfl, Nat.add_comm _ _, fun _ _ => rfl, fun _ _ => Nat.zero_le _, le_rfl,
    fun i hi hin => absurd hin (Nat.not_le.mpr hi), fun i hi h0 => ?_, fun _ => ⟨rfl, rfl⟩, ?_, ?_⟩ (.inl (Nat.lt_succ_self _))
  · by_contra hfar
    rw [hdepth.child i (by omega)] at h0
    exact Nat.succ_ne_zero _ h0
  · rw [List.drop_of_length_le hlength.le]
    simp [spaceTaken]
  · rw [List.drop_of_length_le hlength.le]
    exact fun x hx => absurd hx List.not_mem_nil

end Sys2Proof.Proofs
end

section
/-! SUPPORT. The length limit (42_huffman.md R255): the counts of the lengths keep their number, and the passes bring their
Kraft sum down to exactly the code space. -/

namespace Sys2Proof.Proofs

open Sys2Proof.Machine

/-! Weighted sums of counts. -/

/-- The sum of the counts of the lengths 1 to `n`, each times a weight of its length. -/
def weigh (g : Nat → Nat) (num : List Nat) (n : Nat) : Nat := ((List.range' 1 n).map fun d => num.getD d 0 * g d).sum

theorem weigh_succ (g : Nat → Nat) (num : List Nat) (n : Nat) :
    weigh g num (n + 1) = weigh g num n + num.getD (n + 1) 0 * g (n + 1) := by
  simp [weigh, List.range'_1_concat, Nat.add_comm 1]

theorem weigh_set_of_lt (g : Nat → Nat) (num : List Nat) {n e : Nat} (v : Nat) (he : n < e) :
    weigh g (num.set e v) n = weigh g num n := by
  induction n with
  | zero => rfl
  | succ n ih => rw [weigh_succ, weigh_succ, ih (by omega), getD_set_ne (by omega)]

/-- A count changed from `x` to `v`. -/
theorem weigh_set (g : Nat → Nat) {num : List Nat} {n e x : Nat} (v : Nat) (hx : num.getD e 0 = x) (he1 : 1 ≤ e) (hen : e ≤ n)
    (hlt : e < num.length) : weigh g (num.set e v) n + x * g e = weigh g num n + v * g e := by
  induction n with
  | zero => omega
  | succ n ih =>
    rw [weigh_succ, weigh_succ]
    obtain hen | rfl := Nat.lt_or_eq_of_le hen
    · have := ih (by omega)
      rw [getD_set_ne (by omega)]
      omega
    · rw [weigh_set_of_lt g num v (Nat.lt_succ_self n), getD_set_self hlt, hx]
      omega

/-- One code of `e` bits less. -/
theorem weigh_drop (g : Nat → Nat) {num : List Nat} {n e : Nat} (hne : num.getD e 0 ≠ 0) (he1 : 1 ≤ e) (hen : e ≤ n)
    (hlt : e < num.length) : weigh g (num.set e (num.getD e 0 - 1)) n + g e = weigh g num n := by
  have htaken := weigh_set g (n := n) (num.getD e 0 - 1) rfl he1 hen hlt
  obtain ⟨x, hx⟩ := Nat.exists_eq_succ_of_ne_zero hne
  rw [hx, Nat.succ_mul] at htaken
  rw [hx]
  simp only [Nat.succ_sub_one] at htaken ⊢
  omega

/-- One code of `e` bits split into two of one bit more. -/
theorem weigh_split (g : Nat → Nat) {num : List Nat} {n e : Nat} (hne : num.getD e 0 ≠ 0) (he1 : 1 ≤ e) (hen : e + 1 ≤ n)
    (hlt : e + 1 < num.length) :
    weigh g ((num.set e (num.getD e 0 - 1)).set (e + 1) (num.getD (e + 1) 0 + 2)) n + g e = weigh g num n + 2 * g (e + 1) := by
  have htaken := weigh_drop g hne he1 (n := n) (by omega) (by omega)
  have hadded := weigh_set g (num := num.set e (num.getD e 0 - 1)) (n := n) (x := num.getD (e + 1) 0) (num.getD (e + 1) 0 + 2)
    (getD_set_ne (by omega)) (by omega) hen (by rwa [List.length_set])
  rw [Nat.add_mul] at hadded
  omega

theorem weigh_congr {g g' : Nat → Nat} (num : List Nat) {n : Nat} (h : ∀ d, 1 ≤ d → d ≤ n → g d = g' d) :
    weigh g num n = weigh g' num n := by
  induction n with
  | zero => rfl
  | succ n ih =>
    rw [weigh_succ, weigh_succ, ih fun d hd1 hd => h d hd1 (by omega), h _ (by omega) le_rfl]

theorem weigh_mul (g : Nat → Nat) (num : List Nat) (n c : Nat) :
    weigh (fun d => g d * c) num n = weigh g num n * c := by
  simp only [weigh, ← Nat.mul_assoc, List.sum_map_mul_right]

theorem countsTotal_eq_weigh (num : List Nat) (maxlen : Nat) :
    countsTotal num maxlen = weigh (fun d => 2 ^ (maxlen - d)) num maxlen := rfl

/-! The passes. -/

/-- Counts of `m` codes of at most `maxlen` bits, of which the codes shorter than `maxlen` fit in the code space. -/
structure Counted (maxlen m : Nat) (num : List Nat) : Prop where
  length : num.length = maxlen + 1
  number : weigh (fun _ => 1) num maxlen = m
  short : weigh (fun d => 2 ^ (maxlen - d)) num (maxlen - 1) ≤ 2 ^ maxlen

/-- The code that a pass splits is the longest of at most `d` bits. -/
theorem splitCode_eq {num : List Nat} {d : Nat} (h : ∃ e, 1 ≤ e ∧ e ≤ d ∧ num.getD e 0 ≠ 0) :
    ∃ e, 1 ≤ e ∧ e ≤ d ∧ num.getD e 0 ≠ 0 ∧
      splitCode num d = (num.set e (num.getD e 0 - 1)).set (e + 1) (num.getD (e + 1) 0 + 2) := by
  obtain ⟨e, he1, hed, hne⟩ := h
  induction d with
  | zero => omega
  | succ d ih =>
    rw [splitCode]
    split
    · next hd => exact ⟨d + 1, by omega, le_rfl, hd, rfl⟩
    · next hd =>
      obtain ⟨e', he1', hed', hrest⟩ := ih (Nat.le_of_lt_succ (Nat.lt_of_le_of_ne hed fun heq => hne (heq ▸ not_not.mp hd)))
      exact ⟨e', he1', by omega, hrest⟩

/-- With more than the code space taken by few enough codes, some code is shorter than the limit. -/
theorem Counted.exists_short {M m : Nat} {num : List Nat} (h : Counted (M + 1) m num) (hm : m ≤ 2 ^ (M + 1))
    (hover : 2 ^ (M + 1) < countsTotal num (M + 1)) : ∃ e, 1 ≤ e ∧ e ≤ M ∧ num.getD e 0 ≠ 0 := by
  by_contra hnone
  push Not at hnone
  have hzero (g : Nat → Nat) : weigh g num M = 0 := List.sum_eq_zero fun x hx => by
    obtain ⟨d, hd, rfl⟩ := List.mem_map.mp hx
    obtain ⟨hd1, hdM⟩ := List.mem_range'_1.mp hd
    rw [hnone d hd1 (by omega), Nat.zero_mul]
  have hnumber := h.number
  rw [weigh_succ, hzero] at hnumber
  rw [countsTotal_eq_weigh, weigh_succ, hzero, Nat.sub_self] at hover
  omega

/-- While the total is above the code space, a pass splits a shorter code and keeps the number of codes. -/
theorem Counted.pass {maxlen m : Nat} {num : List Nat} (h : Counted maxlen m num) (hmax : 1 ≤ maxlen) (hm : m ≤ 2 ^ maxlen)
    (hover : 2 ^ maxlen < countsTotal num maxlen) :
    Counted maxlen m (splitCode (num.set maxlen (num.getD maxlen 0 - 1)) (maxlen - 1)) ∧
      countsTotal (splitCode (num.set maxlen (num.getD maxlen 0 - 1)) (maxlen - 1)) maxlen + 1 = countsTotal num maxlen := by
  obtain ⟨M, rfl⟩ := Nat.exists_eq_add_of_le' hmax
  obtain ⟨e, he1, heM, hne⟩ := h.exists_short hm hover
  obtain ⟨hlength, hnumber, hshort⟩ := h
  simp only [countsTotal_eq_weigh, Nat.add_sub_cancel] at hover hshort ⊢
  have hlast : num.getD (M + 1) 0 ≠ 0 := by
    rw [weigh_succ, Nat.sub_self] at hover
    omega
  have hdropped (g : Nat → Nat) := weigh_drop g hlast (by omega) le_rfl (by omega)
  have hlow (g : Nat → Nat) : weigh g (num.set (M + 1) (num.getD (M + 1) 0 - 1)) M = weigh g num M :=
    weigh_set_of_lt g num _ (Nat.lt_succ_self M)
  have hlength1 : (num.set (M + 1) (num.getD (M + 1) 0 - 1)).length = M + 2 := by rw [List.length_set, hlength]
  rw [← getD_set_ne (i := M + 1) (x := num.getD (M + 1) 0 - 1) (by omega)] at hne
  generalize num.set (M + 1) (num.getD (M + 1) 0 - 1) = num1 at hne hdropped hlow hlength1 ⊢
  obtain ⟨e, he1, heM, hne, hsplit⟩ := splitCode_eq ⟨e, he1, heM, hne⟩
  rw [hsplit]
  have hpow : 2 ^ (M + 1 - e) = 2 * 2 ^ (M + 1 - (e + 1)) := by rw [← Nat.pow_succ']; congr 1; omega
  have hsplitAll (g : Nat → Nat) := weigh_split g (n := M + 1) hne he1 (by omega) (by omega)
  refine ⟨⟨by simp [hlength1], ?_, ?_⟩, ?_⟩
  · have := hsplitAll fun _ => 1
    have := hdropped fun _ => 1
    omega
  · rw [← hlow] at hshort
    refine le_trans ?_ hshort
    change weigh _ _ M ≤ _
    obtain heM | rfl := Nat.lt_or_eq_of_le heM
    · have := weigh_split (fun d => 2 ^ (M + 1 - d)) (n := M) hne he1 heM (by omega)
      omega
    · have := weigh_drop (fun d => 2 ^ (e + 1 - d)) (num := num1) (n := e) hne he1 le_rfl (by omega)
      rw [weigh_set_of_lt _ _ _ (Nat.lt_succ_self e)]
      omega
  · have := hsplitAll fun d => 2 ^ (M + 1 - d)
    have := hdropped fun d => 2 ^ (M + 1 - d)
    simp only [Nat.sub_self, Nat.pow_zero] at *
    omega

/-- As many passes as the total lies above the code space end with a complete code. -/
theorem Counted.limit {maxlen m k : Nat} {num : List Nat} (h : Counted maxlen m num) (hmax : 1 ≤ maxlen) (hm : m ≤ 2 ^ maxlen)
    (hk : countsTotal num maxlen = 2 ^ maxlen + k) :
    Counted maxlen m (limitCounts maxlen k num) ∧ countsTotal (limitCounts maxlen k num) maxlen = 2 ^ maxlen := by
  induction k generalizing num with
  | zero => exact ⟨h, hk⟩
  | succ k ih =>
    obtain ⟨hpass, htotal⟩ := h.pass hmax hm (by omega)
    exact ih hpass (by omega)

/-! The counts of the depths. -/

theorem depthCounts_getD {depths : List Nat} {maxlen d : Nat} (hd : 1 ≤ d) (hmax : d ≤ maxlen) :
    (depthCounts depths maxlen).getD d 0 = (depths.map (min maxlen)).count d := by
  obtain ⟨d, rfl⟩ := Nat.exists_eq_add_of_le' hd
  rw [depthCounts, List.cons_append, List.getD_cons_succ, List.count, List.countP_map, List.getD_eq_getElem?_getD]
  obtain hlt | rfl := Nat.lt_or_eq_of_le hmax
  · have hsame : ∀ x ∈ depths, (x == d + 1) = true ↔ ((· == d + 1) ∘ min maxlen) x = true := fun x _ => by
      simp only [Function.comp_apply, beq_iff_eq]
      omega
    rw [List.getElem?_append_left (by simp; omega), ← List.countP_congr hsame]
    simp [show d < maxlen - 1 by omega, List.count, Nat.add_comm 1]
  · have hsame : ∀ x ∈ depths, decide (d + 1 ≤ x) = true ↔ ((· == d + 1) ∘ min (d + 1)) x = true := fun x _ => by
      simp only [Function.comp_apply, beq_iff_eq, decide_eq_true_eq]
      omega
    rw [← List.countP_congr hsame]
    simp

theorem sum_map_ite_eq (xs : List Nat) (k c : Nat) : (xs.map fun x => if x = k then c else 0).sum = xs.count k * c := by
  induction xs with
  | nil => simp
  | cons x xs ih =>
    rw [List.map_cons, List.sum_cons, ih, List.count_cons]
    by_cases h : x = k
    · simp [h, Nat.add_mul, Nat.add_comm]
    · simp [h]

/-- A weighted sum of counts is the sum of the weights of what is counted. -/
theorem sum_count_mul (g : Nat → Nat) (xs : List Nat) (n : Nat) :
    ((List.range' 1 n).map fun d => xs.count d * g d).sum = (xs.map fun x => if 1 ≤ x ∧ x ≤ n then g x else 0).sum := by
  induction n with
  | zero => exact (List.sum_eq_zero fun y hy => by
      obtain ⟨x, -, rfl⟩ := List.mem_map.mp hy
      exact if_neg (by omega)).symm
  | succ n ih =>
    have hsplit (x : Nat) : (if 1 ≤ x ∧ x ≤ n + 1 then g x else 0) =
        (if 1 ≤ x ∧ x ≤ n then g x else 0) + if x = n + 1 then g (n + 1) else 0 := by
      obtain hlt | rfl | hgt := Nat.lt_trichotomy x (n + 1)
      · simp [hlt.ne, hlt.le, Nat.le_of_lt_succ hlt]
      · simp
      · simp [hgt.ne', Nat.not_le.mpr hgt, show ¬ x ≤ n by omega]
    simp only [hsplit]
    rw [List.sum_map_add, sum_map_ite_eq, ← ih]
    simp [List.range'_1_concat, Nat.add_comm 1]

section
variable {depths : List Nat} {maxlen : Nat} (hpos : ∀ x ∈ depths, 0 < x) (hmax : 1 ≤ maxlen)
include hpos hmax

theorem weigh_depthCounts (g : Nat → Nat) {n : Nat} (hn : n ≤ maxlen) :
    weigh g (depthCounts depths maxlen) n = (depths.map fun x => if min maxlen x ≤ n then g (min maxlen x) else 0).sum := by
  have hcount : weigh g (depthCounts depths maxlen) n =
      ((List.range' 1 n).map fun d => (depths.map (min maxlen)).count d * g d).sum :=
    congrArg List.sum (List.map_congr_left fun d hd => by
      obtain ⟨hd1, hdn⟩ := List.mem_range'_1.mp hd
      rw [depthCounts_getD hd1 (by omega)])
  rw [hcount, sum_count_mul, List.map_map]
  refine congrArg List.sum (List.map_congr_left fun x hx => ?_)
  simp [show 1 ≤ maxlen ∧ 1 ≤ x from ⟨hmax, hpos x hx⟩]

/-- Folding the deep codes into the limit leaves the code space full or more than full, with room for the shorter codes. -/
theorem counted_depthCounts (hspace : spaceTaken depths = 1) :
    Counted maxlen depths.length (depthCounts depths maxlen) ∧ 2 ^ maxlen ≤ countsTotal (depthCounts depths maxlen) maxlen := by
  have hscale : (depths.map fun d => (2 : ℚ) ^ maxlen * (1 / 2) ^ d).sum = 2 ^ maxlen := by
    rw [List.sum_map_mul_left, ← spaceTaken, hspace, mul_one]
  have hpow {x : Nat} (hx : x ≤ maxlen) : (2 : ℚ) ^ maxlen * (1 / 2) ^ x = ((2 ^ (maxlen - x) : Nat) : ℚ) := by
    rw [Nat.cast_pow, Nat.cast_ofNat, pow_sub₀ _ two_ne_zero hx, one_div, inv_pow]
  refine ⟨⟨by simp [depthCounts]; omega, ?_, ?_⟩, ?_⟩
  · simp [weigh_depthCounts hpos hmax _ le_rfl]
  · rw [weigh_depthCounts hpos hmax _ (Nat.sub_le _ _), ← Nat.cast_le (α := ℚ), Nat.cast_list_sum, List.map_map, Nat.cast_pow,
      Nat.cast_ofNat, ← hscale]
    refine List.sum_le_sum fun x _ => ?_
    by_cases hx : x < maxlen
    · rw [Function.comp_apply, if_pos (by omega), Nat.min_eq_right hx.le, hpow hx.le]
    · rw [Function.comp_apply, if_neg (by omega), Nat.cast_zero]
      positivity
  · rw [countsTotal_eq_weigh, weigh_depthCounts hpos hmax _ le_rfl, ← Nat.cast_le (α := ℚ), Nat.cast_list_sum, List.map_map,
      Nat.cast_pow, Nat.cast_ofNat, ← hscale]
    refine List.sum_le_sum fun x _ => ?_
    rw [Function.comp_apply, if_pos (Nat.min_le_left _ _)]
    obtain hx | hx := Nat.le_total x maxlen
    · rw [Nat.min_eq_right hx, hpow hx]
    · rw [Nat.min_eq_left hx, Nat.sub_self, one_div, inv_pow, ← div_eq_mul_inv, pow_zero, Nat.cast_one]
      exact div_le_one_of_le₀ (pow_le_pow_right₀ one_le_two hx) (by positivity)

end

/-! The lengths. -/

theorem sum_risingLengths (g : Nat → Nat) (num : List Nat) (n : Nat) :
    (((List.range' 1 n).flatMap fun l => List.replicate (num.getD l 0) l).map g).sum = weigh g num n := by
  simp [weigh, List.flatMap_def, List.sum_flatten, Function.comp_def]

theorem le_of_mem_risingLengths {freqs : List Nat} {maxlen l : Nat} (h : l ∈ risingLengths freqs maxlen) : l ≤ maxlen := by
  obtain ⟨d, hd, hl⟩ := List.mem_flatMap.mp h
  obtain ⟨-, hdmax⟩ := List.mem_range'_1.mp hd
  rw [List.eq_of_mem_replicate hl]
  omega

/-- The lengths of two or more symbols, not too many for the limit, are as many as the symbols and fill the code space. -/
theorem risingLengths_spec {freqs : List Nat} {maxlen : Nat} (hm : 2 ≤ freqs.length) (hmax : 1 ≤ maxlen)
    (hfit : freqs.length ≤ 2 ^ maxlen) :
    (risingLengths freqs maxlen).length = freqs.length ∧
      (maxlen ≤ 15 → ((risingLengths freqs maxlen).map kraftTerm).sum = 2 ^ 15) := by
  obtain ⟨hlength, hspace, hpos⟩ := codeDepths_spec hm
  obtain ⟨hcounted, htotal⟩ := counted_depthCounts hpos hmax hspace
  rw [hlength] at hcounted
  obtain ⟨hcounted, htotal⟩ := hcounted.limit hmax hfit (Nat.add_sub_cancel' htotal).symm
  refine ⟨?_, fun hmax15 => ?_⟩
  · rw [← hcounted.number, ← sum_risingLengths (fun _ => 1), List.map_const', List.sum_replicate, smul_eq_mul, mul_one]
    rfl
  · have hterm : ∀ d, 1 ≤ d → d ≤ maxlen → kraftTerm d = 2 ^ (maxlen - d) * 2 ^ (15 - maxlen) := fun d hd1 hd => by
      rw [kraftTerm, if_neg (by omega), ← Nat.pow_add]
      congr 1
      omega
    rw [risingLengths, sum_risingLengths, weigh_congr _ hterm, weigh_mul, ← countsTotal_eq_weigh,
      htotal, ← Nat.pow_add, Nat.add_sub_cancel' hmax15]

end Sys2Proof.Proofs
end

section
/-! SUPPORT. The length builder as a whole (42_huffman.md R253, R256, R257), and HUF_LENGTHS (R252). -/

namespace Sys2Proof.Proofs

open Sys2Proof.Machine Sys2Proof.Claims

/-! Giving the symbols their lengths. -/

section
variable (pairs : List (Nat × Nat)) (len : List Nat)

theorem length_foldl_setPair : (pairs.foldl (fun len p => len.set p.1 p.2) len).length = len.length := by
  induction pairs generalizing len with
  | nil => rfl
  | cons p pairs ih => rw [List.foldl_cons, ih, List.length_set]

variable {pairs len}

theorem foldl_setPair_of_not_mem {k : Nat} (h : ∀ p ∈ pairs, p.1 ≠ k) :
    (pairs.foldl (fun len p => len.set p.1 p.2) len)[k]? = len[k]? := by
  induction pairs generalizing len with
  | nil => rfl
  | cons p pairs ih =>
    rw [List.foldl_cons, ih fun q hq => h q (List.mem_cons_of_mem _ hq), List.getElem?_set_ne (h p List.mem_cons_self)]

theorem mem_foldl_setPair {l : Nat} (h : l ∈ pairs.foldl (fun len p => len.set p.1 p.2) len) :
    l ∈ len ∨ ∃ p ∈ pairs, l = p.2 := by
  induction pairs generalizing len with
  | nil => exact .inl h
  | cons p pairs ih =>
    obtain hset | ⟨q, hq, rfl⟩ := ih h
    · exact (List.mem_or_eq_of_mem_set hset).imp_right fun heq => ⟨p, List.mem_cons_self, heq⟩
    · exact .inr ⟨q, List.mem_cons_of_mem _ hq, rfl⟩

/-- Setting an entry that is 0 adds its new term to a sum in which 0 has none. -/
theorem sum_map_set {g : Nat → Nat} (hg : g 0 = 0) {k : Nat} (hk : len[k]? = some 0) (v : Nat) :
    ((len.set k v).map g).sum = (len.map g).sum + g v := by
  induction len generalizing k with
  | nil => simp at hk
  | cons x len ih =>
    cases k with
    | zero =>
      obtain rfl : x = 0 := by simpa using hk
      simp [hg, Nat.add_comm]
    | succ k =>
      rw [List.set_cons_succ, List.map_cons, List.sum_cons, ih (by simpa using hk), List.map_cons, List.sum_cons, Nat.add_assoc]

theorem sum_map_foldl_setPair {g : Nat → Nat} (hg : g 0 = 0) (hnodup : (pairs.map Prod.fst).Nodup)
    (hzero : ∀ p ∈ pairs, len[p.1]? = some 0) :
    ((pairs.foldl (fun len p => len.set p.1 p.2) len).map g).sum = (len.map g).sum + ((pairs.map Prod.snd).map g).sum := by
  induction pairs generalizing len with
  | nil => rfl
  | cons p pairs ih =>
    obtain ⟨hnotMem, hnodup⟩ := List.nodup_cons.mp hnodup
    have hrest : ∀ q ∈ pairs, (len.set p.1 p.2)[q.1]? = some 0 := fun q hq => by
      have hne : p.1 ≠ q.1 := fun heq => hnotMem (List.mem_map.mpr ⟨q, hq, heq.symm⟩)
      rw [List.getElem?_set_ne hne, hzero q (List.mem_cons_of_mem _ hq)]
    rw [List.foldl_cons, ih hnodup hrest, sum_map_set hg (hzero p List.mem_cons_self)]
    simp [Nat.add_assoc]

end

/-! The used symbols (R253). -/

theorem insertByFreq_perm (x : Nat × Nat) (ys : List (Nat × Nat)) : (insertByFreq x ys).Perm (x :: ys) := by
  induction ys with
  | nil => exact .refl _
  | cons y ys ih =>
    rw [insertByFreq]
    split
    · exact .refl _
    · exact (ih.cons y).trans (.swap x y ys)

/-- The sorted list holds the used symbols with their frequencies. -/
theorem sortedUsed_perm (freq : List Nat) : (sortedUsed freq).Perm (freq.zipIdx.filter (fun p => 0 < p.1)) := by
  rw [sortedUsed]
  generalize freq.zipIdx.filter (fun p => 0 < p.1) = us
  induction us with
  | nil => exact .refl _
  | cons u us ih => exact (insertByFreq_perm u _).trans (ih.cons u)

theorem mem_sortedUsed {freq : List Nat} {p : Nat × Nat} : p ∈ sortedUsed freq ↔ freq[p.2]? = some p.1 ∧ 0 < p.1 := by
  rw [(sortedUsed_perm freq).mem_iff, List.mem_filter, List.mem_zipIdx_iff_getElem?, decide_eq_true_eq]

theorem length_sortedUsed (freq : List Nat) : (sortedUsed freq).length = freq.countP (fun x => 0 < x) := by
  rw [(sortedUsed_perm freq).length_eq, ← List.countP_eq_length_filter]
  conv_rhs => rw [← List.zipIdx_map_fst 0 freq, List.countP_map]
  rfl

theorem nodup_symbols (freq : List Nat) : ((sortedUsed freq).map Prod.snd).Nodup := by
  rw [((sortedUsed_perm freq).map _).nodup_iff]
  have hall : (freq.zipIdx.map Prod.snd).Nodup := by
    rw [List.zipIdx_map_snd]
    exact List.nodup_range'
  exact hall.sublist (List.filter_sublist.map _)

/-! build_lengths. -/

/-- The symbols that get a length, each with it. -/
def lengthPairs (freq : List Nat) (maxlen : Nat) : List (Nat × Nat) :=
  match sortedUsed freq with
  | [] => []
  | [p] => [(p.2, 1)]
  | p :: q :: rest => ((p :: q :: rest).map Prod.snd).reverse.zip (risingLengths ((p :: q :: rest).map Prod.fst) maxlen)

theorem buildLengths_eq_assignLengths (freq : List Nat) (maxlen : Nat) :
    buildLengths freq maxlen = assignLengths freq.length (lengthPairs freq maxlen) := by
  rw [buildLengths, lengthPairs]
  rcases sortedUsed freq with _ | ⟨p, _ | ⟨q, rest⟩⟩ <;> rfl

theorem lengthPairs_of_singleton {freq : List Nat} {p : Nat × Nat} (h : sortedUsed freq = [p]) (maxlen : Nat) :
    lengthPairs freq maxlen = [(p.2, 1)] := by
  rw [lengthPairs, h]

theorem lengthPairs_of_two_le {freq : List Nat} (h : 2 ≤ (sortedUsed freq).length) (maxlen : Nat) :
    lengthPairs freq maxlen =
      ((sortedUsed freq).map Prod.snd).reverse.zip (risingLengths ((sortedUsed freq).map Prod.fst) maxlen) := by
  rw [lengthPairs]
  generalize sortedUsed freq = us at h ⊢
  rcases us with _ | ⟨p, _ | ⟨q, rest⟩⟩
  · simp at h
  · simp at h
  · rfl

/-- Only used symbols get a length, and none above the limit. -/
theorem of_mem_lengthPairs {freq : List Nat} {maxlen : Nat} (hmax : 1 ≤ maxlen) {p : Nat × Nat}
    (hp : p ∈ lengthPairs freq maxlen) : p.1 ∈ (sortedUsed freq).map Prod.snd ∧ p.2 ≤ maxlen := by
  obtain hlt | hm := Nat.lt_or_ge (sortedUsed freq).length 2
  · rw [lengthPairs] at hp
    generalize sortedUsed freq = us at hp hlt ⊢
    rcases us with _ | ⟨u, _ | ⟨v, rest⟩⟩
    · simp at hp
    · obtain rfl := List.mem_singleton.mp hp
      exact ⟨List.mem_singleton_self _, hmax⟩
    · simp at hlt
  · rw [lengthPairs_of_two_le hm] at hp
    obtain ⟨hsym, hlen⟩ := List.of_mem_zip (a := p.1) (b := p.2) hp
    exact ⟨List.mem_reverse.mp hsym, le_of_mem_risingLengths hlen⟩

theorem freq_of_mem_lengthPairs {freq : List Nat} {maxlen : Nat} (hmax : 1 ≤ maxlen) {p : Nat × Nat}
    (hp : p ∈ lengthPairs freq maxlen) : ∃ f, freq[p.1]? = some f ∧ 0 < f := by
  obtain ⟨u, hu, heq⟩ := List.mem_map.mp (of_mem_lengthPairs hmax hp).1
  exact ⟨u.1, heq ▸ mem_sortedUsed.mp hu⟩

@[simp] theorem length_buildLengths (freq : List Nat) (maxlen : Nat) : (buildLengths freq maxlen).length = freq.length := by
  rw [buildLengths_eq_assignLengths, assignLengths, length_foldl_setPair, List.length_replicate]

section
variable {freq : List Nat} {maxlen : Nat} (hmax : 1 ≤ maxlen)
include hmax

theorem le_of_mem_buildLengths {l : Nat} (h : l ∈ buildLengths freq maxlen) : l ≤ maxlen := by
  rw [buildLengths_eq_assignLengths] at h
  obtain hzero | ⟨p, hp, rfl⟩ := mem_foldl_setPair h
  · rw [List.eq_of_mem_replicate hzero]; exact Nat.zero_le _
  · exact (of_mem_lengthPairs hmax hp).2

theorem buildLengths_of_unused {k : Nat} (h : freq[k]? = some 0) : (buildLengths freq maxlen)[k]? = some 0 := by
  rw [buildLengths_eq_assignLengths, assignLengths, foldl_setPair_of_not_mem]
  · exact List.getElem?_replicate_of_lt (List.getElem?_eq_some_iff.mp h).1
  · rintro p hp rfl
    obtain ⟨f, hf, hpos⟩ := freq_of_mem_lengthPairs hmax hp
    rw [hf, Option.some.injEq] at h
    exact hpos.ne' h

/-- The Kraft sum is that of the lengths given. -/
theorem kraft_buildLengths (hnodup : ((lengthPairs freq maxlen).map Prod.fst).Nodup) :
    kraft (buildLengths freq maxlen) = (((lengthPairs freq maxlen).map Prod.snd).map kraftTerm).sum := by
  have hzero : ∀ p ∈ lengthPairs freq maxlen, (List.replicate freq.length 0)[p.1]? = some 0 := fun p hp => by
    obtain ⟨f, hf, -⟩ := freq_of_mem_lengthPairs hmax hp
    exact List.getElem?_replicate_of_lt (List.getElem?_eq_some_iff.mp hf).1
  have hnone : ((List.replicate freq.length 0).map kraftTerm).sum = 0 := by simp [kraftTerm]
  rw [buildLengths_eq_assignLengths, kraft, assignLengths, sum_map_foldl_setPair rfl hnodup hzero, hnone, Nat.zero_add]

/-- One used symbol alone. -/
theorem buildLengths_of_singleton {p : Nat × Nat} (h : sortedUsed freq = [p]) :
    (buildLengths freq maxlen)[p.2]? = some 1 ∧ kraft (buildLengths freq maxlen) = 2 ^ 14 := by
  have hpairs := lengthPairs_of_singleton h maxlen
  constructor
  · obtain ⟨hfreq, -⟩ := mem_sortedUsed.mp (h ▸ List.mem_singleton_self p)
    rw [buildLengths_eq_assignLengths, hpairs]
    simp [assignLengths, (List.getElem?_eq_some_iff.mp hfreq).1]
  · rw [kraft_buildLengths hmax (by rw [hpairs]; exact List.nodup_singleton _), hpairs]
    rfl

/-- Two or more used symbols, not too many for the limit. -/
theorem kraft_buildLengths_of_two_le (hmax15 : maxlen ≤ 15) (hm : 2 ≤ (sortedUsed freq).length)
    (hfit : (sortedUsed freq).length ≤ 2 ^ maxlen) : kraft (buildLengths freq maxlen) = 2 ^ 15 := by
  rw [← List.length_map (f := Prod.fst)] at hm hfit
  obtain ⟨hlength, hsum⟩ := risingLengths_spec hm hmax hfit
  rw [List.length_map] at hm hlength
  have hsame : ((sortedUsed freq).map Prod.snd).reverse.length =
      (risingLengths ((sortedUsed freq).map Prod.fst) maxlen).length := by
    rw [hlength, List.length_reverse, List.length_map]
  have hpairs := lengthPairs_of_two_le hm maxlen
  rw [kraft_buildLengths hmax, hpairs, List.map_snd_zip hsame.ge, hsum hmax15]
  rw [hpairs, List.map_fst_zip hsame.le, List.nodup_reverse]
  exact nodup_symbols freq

end

/-- Settles O27: the Kraft sum is that of the counts, which the passes bring to the code space. -/
theorem builtLengthsKeepTheLimit : Obligations.BuiltLengthsKeepTheLimit := by
  intro freq maxlen hmax
  have hone (h1 : freq.countP (fun x => 0 < x) = 1) : ∃ p, sortedUsed freq = [p] :=
    List.length_eq_one_iff.mp ((length_sortedUsed freq).trans h1)
  refine ⟨length_buildLengths freq maxlen, fun l hl => le_of_mem_buildLengths hmax hl,
    fun k hk => buildLengths_of_unused hmax hk, fun k h1 hk => ?_, fun h1 => ?_, fun hmax15 hm hfit => ?_⟩
  · obtain ⟨p, hp⟩ := hone h1
    have hmem : (freq.getD k 0, k) ∈ sortedUsed freq := by
      refine mem_sortedUsed.mpr ⟨?_, hk⟩
      have hlt : k < freq.length := by
        by_contra hge
        rw [List.getD_eq_default _ _ (Nat.le_of_not_lt hge)] at hk
        exact hk.false
      rw [List.getD_eq_getElem _ _ hlt, List.getElem?_eq_getElem hlt]
    rw [hp, List.mem_singleton] at hmem
    rw [show k = p.2 from congrArg Prod.snd hmem]
    exact (buildLengths_of_singleton hmax hp).1
  · obtain ⟨p, hp⟩ := hone h1
    exact (buildLengths_of_singleton hmax hp).2
  · rw [← length_sortedUsed] at hm hfit
    exact kraft_buildLengths_of_two_le hmax hmax15 hm hfit

/-! HUF_LENGTHS (R252). -/

/-- What HUF_LENGTHS does with the frequencies it has read. -/
def finishLengths (maxlen o : Nat) (freq : List Nat) : Cmd Finish := do
  deny (decide (2 ^ maxlen < freq.countP (fun x => 0 < x))) .tooManySymbols (freq.countP (fun x => 0 < x))
  memWrite o ((buildLengths freq maxlen).map (BitVec.ofNat 8))
  finish .ok (freq.countP (fun x => 0 < x)) ((buildLengths freq maxlen).foldl max 0)

theorem exec_hufLengths (maxlen : Nat) (s : State) : exec (.hufLengths maxlen) s = runCmd (do
    deny (maxlen == 0) .badMaxlen 0
    deny (decide (288 < s.args.a1.toNat)) .badCount s.args.a1.toNat
    readBeforeWrite s.args.a0.toNat (2 * s.args.a1.toNat) s.args.a2.toNat s.args.a1.toNat fun bytes =>
      finishLengths maxlen s.args.a2.toNat (halves bytes)) s := rfl

/-- Settles O26: with its checks passed HUF_LENGTHS goes on with the frequencies read, which it counts before it writes. -/
theorem hufLengthsWritesLengths : Obligations.HufLengthsWritesLengths := by
  intro s
  refine ⟨?_, fun maxlen freq hwf hmax _ hn hin hout hapart hfreq => ?_⟩
  · rw [exec_hufLengths]
    exact runCmd_of_raise (bind_of_raise (deny_true .badMaxlen 0 s))
  have hlength : freq.length = s.args.a1.toNat := by simp [hfreq]
  have hexec : exec (.hufLengths maxlen) s = runCmd (finishLengths maxlen s.args.a2.toNat freq) s := by
    rw [exec_hufLengths, beq_false_of_ne (Nat.ne_of_gt hmax), decide_eq_false (Nat.not_lt.mpr hn),
      runCmd_congr (bind_ok (deny_false _ _ _)), runCmd_congr (bind_ok (deny_false _ _ _)),
      runCmd_congr (readBeforeWrite_of_apart _ hin hout hapart), halves_bytesAt, ← hfreq]
  rw [hexec, finishLengths]
  refine ⟨fun hmany => ?_, fun hfit => ?_⟩
  · rw [decide_eq_true hmany]
    exact runCmd_of_raise (bind_of_raise (deny_true .tooManySymbols _ s))
  · rw [decide_eq_false (Nat.not_lt.mpr hfit), runCmd_congr (bind_ok (deny_false _ _ _))]
    refine runCmd_memWrite_finish hwf ?_ _ _
    rwa [List.length_map, length_buildLengths, hlength]

end Sys2Proof.Proofs
end

section
/-! SUPPORT. The entries of a decode table (42_huffman.md R264 to R266): what each place of the fast table and the tree holds
while codes are entered. A node is named by its depth and the bits that lead to it, and `ps` lists the nodes by number. -/

namespace Sys2Proof.Proofs

open Sys2Proof.Machine Sys2Proof.Claims

/-! The entry formats (R266). -/

theorem leafEntry_toNat {l sym : Nat} (hl : l ≤ 15) (hsym : sym < 512) :
    (leafEntry l sym).toNat = 0x4000 + l * 2 ^ 9 + sym := by
  rw [leafEntry, BitVec.toNat_ofNat, Nat.mod_eq_of_lt (by omega)]

theorem nodeEntry_toNat {n : Nat} (hn : n < 512) : (nodeEntry n).toNat = 0x8000 + n := by
  rw [nodeEntry, BitVec.toNat_ofNat, Nat.mod_eq_of_lt (by omega)]

theorem nodeOf_nodeEntry {n : Nat} (hn : n < 512) : nodeOf (nodeEntry n) = n := by
  rw [nodeOf, nodeEntry_toNat hn]
  omega

theorem nodeEntry_ne_zero {n : Nat} (hn : n < 512) : nodeEntry n ≠ 0#16 := fun h => by
  have := congrArg BitVec.toNat h
  rw [nodeEntry_toNat hn, BitVec.toNat_ofNat] at this
  omega

theorem leafEntry_ne_zero {l sym : Nat} (hl : l ≤ 15) (hsym : sym < 512) : leafEntry l sym ≠ 0#16 := fun h => by
  have := congrArg BitVec.toNat h
  rw [leafEntry_toNat hl hsym, BitVec.toNat_ofNat] at this
  omega

theorem leafEntry_inj {l l' sym sym' : Nat} (hl : l ≤ 15) (hsym : sym < 512) (hl' : l' ≤ 15) (hsym' : sym' < 512)
    (h : leafEntry l sym = leafEntry l' sym') : l = l' ∧ sym = sym' := by
  have := congrArg BitVec.toNat h
  rw [leafEntry_toNat hl hsym, leafEntry_toNat hl' hsym'] at this
  omega

theorem getLsbD_fifteen (e : Half) : e.getLsbD 15 = decide (0x8000 ≤ e.toNat) := BitVec.msb_eq_decide e

/-! The nodes and the codes of a table. -/

/-- A place deeper than the fast table's bits at which some code goes on. -/
def Inner (codes : List CodeWord) (q : Nat × Nat) : Prop := 10 ≤ q.1 ∧ ∃ w ∈ codes, q.1 < w.len ∧ w.rev % 2 ^ q.1 = q.2

/-- Codes, none of which begins another, of symbols and lengths that an entry can hold, whose nodes fit in the tree (R267). -/
structure FitCodes (codes : List CodeWord) : Prop where
  free : PrefixFree codes
  sym_lt : ∀ w ∈ codes, w.sym < 512
  len_pos : ∀ w ∈ codes, 0 < w.len
  len_le : ∀ w ∈ codes, w.len ≤ 15
  rev_lt : ∀ w ∈ codes, w.rev < 2 ^ w.len
  capacity : ∀ ps : List (Nat × Nat), ps.Nodup → (∀ q ∈ ps, Inner codes q) → ps.length ≤ 288

/-- A code ends at or before no place at which another goes on. -/
theorem FitCodes.not_within_of_inner {codes : List CodeWord} (hfit : FitCodes codes) {w : CodeWord} {d p : Nat} (hw : w ∈ codes)
    (hin : Inner codes (d, p)) : w.within p d = false := by
  obtain ⟨-, v, hv, hd, hp⟩ := hin
  refine hfit.free.not_within_of_beyond hw hv (beyond_iff.mpr ⟨hd, ?_⟩)
  dsimp only at hp
  rw [← hp, Nat.mod_mod]

/-! Places of the fast table and of the tree. -/

/-- The places that a table with the nodes `ps` has: the fast entries, at depth 10, and two below each node. -/
def IsPlace (ps : List (Nat × Nat)) (d p : Nat) : Prop := p < 2 ^ d ∧ (d = 10 ∨ 10 < d ∧ (d - 1, p % 2 ^ (d - 1)) ∈ ps)

/-- The tree slot of a place: its node's, for the place's last bit. -/
def childSlot (ps : List (Nat × Nat)) (d p : Nat) : Nat := 2 * ps.idxOf (d - 1, p % 2 ^ (d - 1)) + p / 2 ^ (d - 1)

def readEntry (sl : Slot) (ps : List (Nat × Nat)) (d p : Nat) : Half :=
  if d = 10 then sl.fast.getD p 0#16 else sl.tree.getD (childSlot ps d p) 0#16

def writeEntry (sl : Slot) (ps : List (Nat × Nat)) (d p : Nat) (v : Half) : Slot :=
  if d = 10 then { sl with fast := sl.fast.set p v } else { sl with tree := sl.tree.set (childSlot ps d p) v }

section
variable {ps : List (Nat × Nat)} {d p d' p' : Nat}

/-- The high bit of a number of `d` bits. -/
theorem div_two_pow_lt_two (hd : 0 < d) (hp : p < 2 ^ d) : p / 2 ^ (d - 1) < 2 := by
  rw [Nat.div_lt_iff_lt_mul (Nat.two_pow_pos _), ← Nat.pow_succ', Nat.succ_eq_add_one, Nat.sub_add_cancel hd]
  exact hp

theorem IsPlace.lt_of_ne (h : IsPlace ps d p) (hd : d ≠ 10) : 10 < d := (h.2.resolve_left hd).1

theorem IsPlace.childSlot_lt (h : IsPlace ps d p) (hd : d ≠ 10) : childSlot ps d p < 2 * ps.length := by
  obtain ⟨hp, rfl | ⟨hd10, hmem⟩⟩ := h
  · exact absurd rfl hd
  · have := List.idxOf_lt_length_of_mem hmem
    have := div_two_pow_lt_two (by omega) hp
    rw [childSlot]
    omega

/-- Two places with one slot are one. -/
theorem IsPlace.eq_of_childSlot_eq (h : IsPlace ps d p) (h' : IsPlace ps d' p') (hd : d ≠ 10) (hd' : d' ≠ 10)
    (heq : childSlot ps d p = childSlot ps d' p') : d = d' ∧ p = p' := by
  obtain ⟨hp, rfl | ⟨hd10, hmem⟩⟩ := h
  · exact absurd rfl hd
  obtain ⟨hp', rfl | ⟨hd10', hmem'⟩⟩ := h'
  · exact absurd rfl hd'
  have hparts (i j x y : Nat) (hx : x < 2) (hy : y < 2) (h : 2 * i + x = 2 * j + y) : i = j ∧ x = y := by omega
  obtain ⟨hidx, hbit⟩ := hparts _ _ _ _ (div_two_pow_lt_two (by omega) hp) (div_two_pow_lt_two (by omega) hp') heq
  obtain ⟨hdd, hpp⟩ := Prod.mk.inj ((List.idxOf_inj hmem).mp hidx)
  obtain rfl : d = d' := by omega
  refine ⟨rfl, ?_⟩
  rw [← Nat.div_add_mod p (2 ^ (d - 1)), ← Nat.div_add_mod p' (2 ^ (d - 1)), hpp, hbit]

variable {sl : Slot} {v : Half}

theorem readEntry_writeEntry_self (h : IsPlace ps d p) (hfast : sl.fast.length = 1024)
    (htree : 2 * ps.length ≤ sl.tree.length) : readEntry (writeEntry sl ps d p v) ps d p = v := by
  by_cases hd : d = 10
  · subst hd
    exact getD_set_self (hfast ▸ h.1)
  · rw [readEntry, writeEntry, if_neg hd, if_neg hd]
    exact getD_set_self ((h.childSlot_lt hd).trans_le htree)

theorem readEntry_writeEntry_ne (h : IsPlace ps d p) (h' : IsPlace ps d' p') (hne : (d', p') ≠ (d, p)) :
    readEntry (writeEntry sl ps d p v) ps d' p' = readEntry sl ps d' p' := by
  by_cases hd : d = 10 <;> by_cases hd' : d' = 10
  · simp only [readEntry, writeEntry, if_pos hd, if_pos hd']
    exact getD_set_ne fun heq => hne (by rw [hd, hd', heq])
  · simp only [readEntry, writeEntry, if_pos hd, if_neg hd']
  · simp only [readEntry, writeEntry, if_neg hd, if_pos hd']
  · simp only [readEntry, writeEntry, if_neg hd, if_neg hd']
    refine getD_set_ne fun heq => hne ?_
    obtain ⟨hdd, hpp⟩ := h.eq_of_childSlot_eq h' hd hd' heq
    rw [hdd, hpp]

/-- A write to a place leaves the slots past the nodes alone. -/
theorem writeEntry_tree_of_le (h : IsPlace ps d p) {k : Nat} (hk : 2 * ps.length ≤ k) :
    (writeEntry sl ps d p v).tree.getD k 0#16 = sl.tree.getD k 0#16 := by
  rw [writeEntry]
  split
  · rfl
  · next hd => exact getD_set_ne (by have := h.childSlot_lt hd; omega)

theorem writeEntry_fast_length (sl : Slot) : (writeEntry sl ps d p v).fast.length = sl.fast.length := by
  rw [writeEntry]; split <;> simp

theorem writeEntry_tree_length (sl : Slot) : (writeEntry sl ps d p v).tree.length = sl.tree.length := by
  rw [writeEntry]; split <;> simp

theorem writeEntry_nodes (sl : Slot) : (writeEntry sl ps d p v).nodes = sl.nodes := by
  rw [writeEntry]; split <;> rfl

/-- A further node moves no place. -/
theorem IsPlace.readEntry_append (h : IsPlace ps d p) (q : Nat × Nat) : readEntry sl (ps ++ [q]) d p = readEntry sl ps d p := by
  obtain ⟨-, rfl | ⟨-, hmem⟩⟩ := h
  · rfl
  · rw [readEntry, readEntry, childSlot, childSlot, List.idxOf_append_of_mem hmem]

/-- A place of a table with one more node is an old one or lies below the new node. -/
theorem IsPlace.of_append {q : Nat × Nat} (h : IsPlace (ps ++ [q]) d p) :
    IsPlace ps d p ∨ p < 2 ^ d ∧ 10 < d ∧ (d - 1, p % 2 ^ (d - 1)) = q := by
  obtain ⟨hp, hd | ⟨hd, hmem⟩⟩ := h
  · exact .inl ⟨hp, .inl hd⟩
  · obtain hmem | hmem := List.mem_append.mp hmem
    · exact .inl ⟨hp, .inr ⟨hd, hmem⟩⟩
    · exact .inr ⟨hp, hd, List.mem_singleton.mp hmem⟩

end

/-! What a place holds. -/

/-- The entry of a place that is no node: the code, of those entered, that its bits begin with. -/
def leafAt (ws : List CodeWord) (d p : Nat) : Half :=
  match ws.find? (fun w => w.within p d) with
  | some w => leafEntry w.len w.sym
  | none => 0#16

/-- The entry of a place, with the nodes `ps` made and the codes `ws` entered. -/
def entryAt (ws : List CodeWord) (ps : List (Nat × Nat)) (d p : Nat) : Half :=
  if (d, p) ∈ ps then nodeEntry (ps.idxOf (d, p)) else leafAt ws d p

theorem leafAt_eq_zero {ws : List CodeWord} {d p : Nat} (h : ∀ w ∈ ws, w.within p d = false) : leafAt ws d p = 0#16 := by
  rw [leafAt, List.find?_eq_none.mpr fun w hw => by simp [h w hw]]

theorem leafAt_cons (w : CodeWord) (ws : List CodeWord) (d p : Nat) :
    leafAt (w :: ws) d p = if w.within p d then leafEntry w.len w.sym else leafAt ws d p := by
  cases h : w.within p d <;> simp [leafAt, h]

/-- A slot with the codes `ws`, of all the `codes`, entered, and the nodes `ps` made. -/
structure Table (codes ws : List CodeWord) (ps : List (Nat × Nat)) (sl : Slot) : Prop where
  fast : sl.fast.length = 1024
  tree : sl.tree.length = 576
  nodes : sl.nodes = ps.length
  nodup : ps.Nodup
  inner : ∀ q ∈ ps, Inner codes q
  parent : ∀ d p, (d + 1, p) ∈ ps → 10 ≤ d → (d, p % 2 ^ d) ∈ ps
  sub : ∀ w ∈ ws, w ∈ codes
  cover : ∀ w ∈ ws, ∀ d, 10 ≤ d → d < w.len → (d, w.rev % 2 ^ d) ∈ ps
  entry : ∀ d p, IsPlace ps d p → readEntry sl ps d p = entryAt ws ps d p
  unused : ∀ k, 2 * ps.length ≤ k → sl.tree.getD k 0#16 = 0#16

section
variable {codes ws : List CodeWord} {ps : List (Nat × Nat)} {sl : Slot} (hfit : FitCodes codes) (h : Table codes ws ps sl)
include hfit h

theorem Table.length_le : ps.length ≤ 288 := hfit.capacity ps h.nodup h.inner

/-- A place at which a code goes on holds its node, or nothing yet. -/
theorem Table.entryAt_of_inner {d p : Nat} (hin : Inner codes (d, p)) :
    entryAt ws ps d p = if (d, p) ∈ ps then nodeEntry (ps.idxOf (d, p)) else 0#16 := by
  rw [entryAt, leafAt_eq_zero fun w hw => hfit.not_within_of_inner (h.sub w hw) hin]

/-- The places below a node not made yet hold nothing. -/
theorem Table.leafAt_below {d p : Nat} (hin : Inner codes (d, p % 2 ^ d)) (hnew : (d, p % 2 ^ d) ∉ ps) :
    leafAt ws (d + 1) p = 0#16 := by
  refine leafAt_eq_zero fun w hw => Bool.eq_false_iff.mpr fun hwithin => ?_
  obtain ⟨hlen, hrev⟩ := within_iff.mp hwithin
  obtain hlt | heq := Nat.lt_or_eq_of_le hlen
  · refine Bool.eq_false_iff.mp (hfit.not_within_of_inner (h.sub w hw) hin) (within_iff.mpr ⟨by omega, ?_⟩)
    rw [Nat.mod_mod_of_dvd _ (Nat.pow_dvd_pow 2 (by omega)), hrev]
  · refine hnew ?_
    have := h.cover w hw d hin.1 (by omega)
    rwa [← hrev, Nat.mod_mod_of_dvd _ (Nat.pow_dvd_pow 2 (by omega))] at this

/-- A node is made at a place at which a code goes on. -/
theorem Table.addNode {d p : Nat} (hin : Inner codes (d, p)) (hplace : IsPlace ps d p) (hnew : (d, p) ∉ ps) :
    Table codes ws (ps ++ [(d, p)]) { writeEntry sl ps d p (nodeEntry sl.nodes) with nodes := sl.nodes + 1 } := by
  have hnodup : (ps ++ [(d, p)]).Nodup := List.concat_eq_append ▸ h.nodup.concat hnew
  have hinner : ∀ q ∈ ps ++ [(d, p)], Inner codes q := fun q hq => by
    obtain hq | hq := List.mem_append.mp hq
    · exact h.inner q hq
    · exact List.mem_singleton.mp hq ▸ hin
  have hcap := hfit.capacity _ hnodup hinner
  rw [List.length_append, List.length_singleton] at hcap
  refine ⟨(writeEntry_fast_length sl).trans h.fast, (writeEntry_tree_length sl).trans h.tree, by simp [h.nodes], hnodup, hinner,
    fun d' p' hmem hd' => ?_, h.sub, fun w hw d' hd' hlen => List.mem_append_left _ (h.cover w hw d' hd' hlen),
    fun d' p' hplace' => ?_, fun k hk => ?_⟩
  · obtain hmem | hmem := List.mem_append.mp hmem
    · exact List.mem_append_left _ (h.parent d' p' hmem hd')
    · obtain ⟨rfl, rfl⟩ := Prod.mk.inj (List.mem_singleton.mp hmem)
      obtain ⟨-, hd10 | ⟨-, hparent⟩⟩ := hplace
      · omega
      · exact List.mem_append_left _ hparent
  · change readEntry (writeEntry sl ps d p (nodeEntry sl.nodes)) _ d' p' = _
    obtain hplace' | ⟨hp', hd', hbelow⟩ := hplace'.of_append
    · rw [hplace'.readEntry_append]
      by_cases heq : (d', p') = (d, p)
      · obtain ⟨rfl, rfl⟩ := Prod.mk.inj heq
        rw [readEntry_writeEntry_self hplace h.fast (by rw [h.tree]; omega), entryAt, if_pos (by simp), h.nodes,
          List.idxOf_append_of_notMem hnew]
        simp
      · rw [readEntry_writeEntry_ne hplace hplace' heq, h.entry d' p' hplace', entryAt, entryAt]
        by_cases hmem : (d', p') ∈ ps
        · rw [if_pos hmem, if_pos (List.mem_append_left _ hmem), List.idxOf_append_of_mem hmem]
        · rw [if_neg hmem, if_neg (by simpa [hmem] using heq)]
    · obtain ⟨hdd, hpp⟩ := Prod.mk.inj hbelow
      obtain rfl : d' = d + 1 := by omega
      rw [Nat.add_sub_cancel] at hpp
      subst hpp
      have hslot : 2 * ps.length ≤ childSlot (ps ++ [(d, p' % 2 ^ d)]) (d + 1) p' := by
        rw [childSlot, Nat.add_sub_cancel, List.idxOf_append_of_notMem hnew]
        simp
      have hnone : (d + 1, p') ∉ ps ++ [(d, p' % 2 ^ d)] := fun hmem => by
        obtain hmem | hmem := List.mem_append.mp hmem
        · exact hnew (h.parent d p' hmem hin.1)
        · simp at hmem
      rw [readEntry, if_neg (by omega), writeEntry_tree_of_le hplace hslot, h.unused _ hslot, entryAt, if_neg hnone,
        h.leafAt_below hfit hin hnew]
  · rw [List.length_append, List.length_singleton] at hk
    exact (writeEntry_tree_of_le hplace (by omega)).trans (h.unused k (by omega))

/-- A new code is entered: every place at which it ends holds its leaf. -/
theorem Table.addLeaf {w : CodeWord} {sl' : Slot} (hw : w ∈ codes) (hfast : sl'.fast.length = 1024)
    (htree : sl'.tree.length = 576) (hnodes : sl'.nodes = sl.nodes) (hcover : ∀ d, 10 ≤ d → d < w.len → (d, w.rev % 2 ^ d) ∈ ps)
    (hentry : ∀ d p, IsPlace ps d p →
      readEntry sl' ps d p = if w.within p d then leafEntry w.len w.sym else readEntry sl ps d p)
    (hunused : ∀ k, 2 * ps.length ≤ k → sl'.tree.getD k 0#16 = sl.tree.getD k 0#16) : Table codes (w :: ws) ps sl' where
  fast := hfast
  tree := htree
  nodes := hnodes.trans h.nodes
  nodup := h.nodup
  inner := h.inner
  parent := h.parent
  sub v hv := by
    obtain rfl | hv := List.mem_cons.mp hv
    · exact hw
    · exact h.sub v hv
  cover v hv := by
    obtain rfl | hv := List.mem_cons.mp hv
    · exact hcover
    · exact h.cover v hv
  entry d p hplace := by
    rw [hentry d p hplace, h.entry d p hplace, entryAt, entryAt, leafAt_cons]
    by_cases hmem : (d, p) ∈ ps
    · rw [hfit.not_within_of_inner hw (h.inner _ hmem), if_neg Bool.false_ne_true, if_pos hmem, if_pos hmem]
    · rw [if_neg hmem, if_neg hmem]
  unused k hk := (hunused k hk).trans (h.unused k hk)

/-- A code that ends at or before a place of the tree ends exactly there. -/
theorem Table.len_eq_of_within {w : CodeWord} {d p : Nat} (hw : w ∈ codes) (hplace : IsPlace ps d p) (hd : 10 < d)
    (hwithin : w.within p d = true) : w.len = d ∧ p = w.rev := by
  obtain ⟨hp, rfl | ⟨-, hmem⟩⟩ := hplace
  · exact absurd hd (lt_irrefl 10)
  obtain ⟨hlen, hrev⟩ := within_iff.mp hwithin
  have hlen : w.len = d := by
    by_contra hne
    refine Bool.eq_false_iff.mp (hfit.not_within_of_inner hw (h.inner _ hmem)) (within_iff.mpr ⟨by omega, ?_⟩)
    rw [Nat.mod_mod_of_dvd _ (Nat.pow_dvd_pow 2 (by omega)), hrev]
  exact ⟨hlen, by rw [← hrev, hlen, Nat.mod_eq_of_lt hp]⟩

end

/-! Entering a code (R265). -/

/-- The slot with a node at a place, made if none is there. -/
def stepSlot (sl : Slot) (ps : List (Nat × Nat)) (d p : Nat) : Slot :=
  if readEntry sl ps d p = 0#16 then { writeEntry sl ps d p (nodeEntry sl.nodes) with nodes := sl.nodes + 1 } else sl

/-- The number of that node. -/
def stepNode (sl : Slot) (ps : List (Nat × Nat)) (d p : Nat) : Nat :=
  if readEntry sl ps d p = 0#16 then sl.nodes else nodeOf (readEntry sl ps d p)

theorem childSlot_succ (ps : List (Nat × Nat)) (r b : Nat) :
    childSlot ps (b + 1) (r % 2 ^ (b + 1)) = 2 * ps.idxOf (b, r % 2 ^ b) + r / 2 ^ b % 2 := by
  rw [childSlot, Nat.add_sub_cancel, Nat.mod_mod_of_dvd _ (Nat.pow_dvd_pow 2 (Nat.le_succ b)), Nat.pow_succ,
    Nat.mod_mul_right_div_self]

theorem isPlace_of_mem {ps : List (Nat × Nat)} {r b : Nat} (hb : 10 ≤ b) (hmem : (b, r % 2 ^ b) ∈ ps) :
    IsPlace ps (b + 1) (r % 2 ^ (b + 1)) := by
  refine ⟨Nat.mod_lt _ (Nat.two_pow_pos _), .inr ⟨by omega, ?_⟩⟩
  rwa [Nat.add_sub_cancel, Nat.mod_mod_of_dvd _ (Nat.pow_dvd_pow 2 (Nat.le_succ b))]

/-- A round of the walk is one step down from its node. -/
theorem walkTree_succ {r k b : Nat} {ps : List (Nat × Nat)} {sl : Slot} (hb : 10 ≤ b) :
    walkTree r (k + 1) b (ps.idxOf (b, r % 2 ^ b)) sl =
      walkTree r k (b + 1) (stepNode sl ps (b + 1) (r % 2 ^ (b + 1))) (stepSlot sl ps (b + 1) (r % 2 ^ (b + 1))) := by
  have hb : b + 1 ≠ 10 := by omega
  rw [walkTree, stepNode, stepSlot, readEntry, writeEntry, if_neg hb, if_neg hb, childSlot_succ]
  split <;> rfl

/-- Entering a long code: its first node, the walk, and its leaf at the place the walk ends at. -/
theorem enterLong_eq_writeEntry {sl : Slot} {ps ps₁ ps₂ : List (Nat × Nat)} {sym l r n : Nat} (hl : l ≠ 10)
    (hn : nodeOf (readEntry (stepSlot sl ps 10 (r % 2 ^ 10)) ps₁ 10 (r % 2 ^ 10)) = n)
    (hslot : childSlot ps₂ l r = 2 * (walkTree r (l - 11) 10 n (stepSlot sl ps 10 (r % 2 ^ 10))).1 + r / 2 ^ (l - 1) % 2) :
    enterLong sl sym l r =
      writeEntry (walkTree r (l - 11) 10 n (stepSlot sl ps 10 (r % 2 ^ 10))).2 ps₂ l r (leafEntry l sym) := by
  subst hn
  rw [writeEntry, if_neg hl, hslot]
  rfl

theorem getD_foldl_set {α : Type} (ks : List Nat) (pos : Nat → Nat) (v y : α) {f : List α} {p : Nat} (hp : p < f.length) :
    (ks.foldl (fun f k => f.set (pos k) v) f).getD p y = if p ∈ ks.map pos then v else f.getD p y := by
  induction ks generalizing f with
  | nil => rfl
  | cons k ks ih =>
    rw [List.foldl_cons, ih (by rwa [List.length_set]), List.map_cons]
    by_cases hk : pos k = p
    · subst hk
      simp [hp]
    · rw [getD_set_ne hk]
      simp [Ne.symm hk]

/-- The fast entries that a short code fills are those whose low bits are the code. -/
theorem mem_shortPlaces {l r p : Nat} (hl : l ≤ 10) (hr : r < 2 ^ l) (hp : p < 2 ^ 10) :
    p ∈ (List.range (2 ^ (10 - l))).map (fun k => r + k * 2 ^ l) ↔ p % 2 ^ l = r := by
  rw [List.mem_map]
  constructor
  · rintro ⟨k, -, rfl⟩
    rw [Nat.add_mul_mod_self_right, Nat.mod_eq_of_lt hr]
  · rintro rfl
    refine ⟨p / 2 ^ l, List.mem_range.mpr ?_, by rw [Nat.mul_comm, Nat.mod_add_div]⟩
    rwa [Nat.div_lt_iff_lt_mul (Nat.two_pow_pos _), ← Nat.pow_add, Nat.sub_add_cancel hl]

section
variable {codes ws : List CodeWord} {ps : List (Nat × Nat)} {sl : Slot} (hfit : FitCodes codes) (h : Table codes ws ps sl)
include hfit h

theorem Table.enterShort {w : CodeWord} (hw : w ∈ codes) (hl : w.len ≤ 10) :
    Table codes (w :: ws) ps (enterShort sl w.sym w.len w.rev) := by
  obtain ⟨-, -, -, hfast, htree⟩ := sameShape_enterShort sl w.sym w.len w.rev
  refine h.addLeaf hfit hw (hfast.trans h.fast) (htree.trans h.tree) rfl (fun d hd hlt => by omega) (fun d p hplace => ?_)
    fun k _ => rfl
  by_cases hd : d = 10
  · subst hd
    have hp : p < sl.fast.length := h.fast ▸ hplace.1
    have hwithin : w.within p 10 = true ↔ p % 2 ^ w.len = w.rev := by rw [within_iff]; exact and_iff_right hl
    simp only [readEntry, if_pos, Machine.enterShort, getD_foldl_set _ _ _ _ hp, Config.fastBits,
      mem_shortPlaces hl (hfit.rev_lt w hw) hplace.1, hwithin]
  · have hd10 := hplace.lt_of_ne hd
    rw [if_neg fun hwithin => by have := (h.len_eq_of_within hfit hw hplace hd10 hwithin).1; omega]
    simp only [readEntry, if_neg hd]
    rfl

/-- A place at which a code goes on gets its node if it has none, and the walk goes on from that node. -/
theorem Table.step {d p : Nat} (hin : Inner codes (d, p)) (hplace : IsPlace ps d p) :
    ∃ ps', (d, p) ∈ ps' ∧ Table codes ws ps' (stepSlot sl ps d p) ∧ stepNode sl ps d p = ps'.idxOf (d, p) := by
  have hle := h.length_le hfit
  have hentry := h.entry d p hplace
  rw [h.entryAt_of_inner hfit hin] at hentry
  rw [stepSlot, stepNode, hentry]
  by_cases hmem : (d, p) ∈ ps
  · have hlt := List.idxOf_lt_length_of_mem hmem
    rw [if_pos hmem, if_neg (nodeEntry_ne_zero (by omega)), if_neg (nodeEntry_ne_zero (by omega))]
    exact ⟨ps, hmem, h, nodeOf_nodeEntry (by omega)⟩
  · rw [if_neg hmem, if_pos rfl, if_pos rfl]
    refine ⟨_, by simp, h.addNode hfit hin hplace hmem, ?_⟩
    rw [List.idxOf_append_of_notMem hmem, h.nodes]
    simp

/-- The walk of a code makes its nodes, and answers the last. -/
theorem Table.walkTree {r k b : Nat} (hin : ∀ d, 10 ≤ d → d ≤ b + k → Inner codes (d, r % 2 ^ d)) (hb : 10 ≤ b)
    (hmem : (b, r % 2 ^ b) ∈ ps) :
    ∃ ps', (b + k, r % 2 ^ (b + k)) ∈ ps' ∧ Table codes ws ps' (walkTree r k b (ps.idxOf (b, r % 2 ^ b)) sl).2 ∧
      (walkTree r k b (ps.idxOf (b, r % 2 ^ b)) sl).1 = ps'.idxOf (b + k, r % 2 ^ (b + k)) := by
  induction k generalizing b ps sl with
  | zero => exact ⟨ps, hmem, h, rfl⟩
  | succ k ih =>
    obtain ⟨ps', hmem', htable, hnode⟩ := h.step hfit (hin (b + 1) (by omega) (by omega)) (isPlace_of_mem hb hmem)
    rw [walkTree_succ hb, hnode, Nat.add_comm k 1, ← Nat.add_assoc]
    exact ih htable (fun d hd hle => hin d hd (by omega)) (by omega) hmem'

omit hfit in
/-- With a node its ancestors are there. -/
theorem Table.mem_of_mem {r d b : Nat} (hmem : (b, r % 2 ^ b) ∈ ps) (hd : 10 ≤ d) (hle : d ≤ b) : (d, r % 2 ^ d) ∈ ps := by
  induction b with
  | zero => omega
  | succ b ih =>
    obtain rfl | hlt := Nat.eq_or_lt_of_le hle
    · exact hmem
    · have hparent := h.parent b _ hmem (by omega)
      rw [Nat.mod_mod_of_dvd _ (Nat.pow_dvd_pow 2 (Nat.le_succ b))] at hparent
      exact ih hparent (by omega)

/-- A node's place holds its number. -/
theorem Table.nodeOf_readEntry {d p : Nat} (hmem : (d, p) ∈ ps) (hplace : IsPlace ps d p) :
    nodeOf (readEntry sl ps d p) = ps.idxOf (d, p) := by
  have hle := h.length_le hfit
  have hlt := List.idxOf_lt_length_of_mem hmem
  rw [h.entry d p hplace, entryAt, if_pos hmem, nodeOf_nodeEntry (by omega)]

/-- A long code's leaf is put below its last node. -/
theorem Table.putLeaf {w : CodeWord} (hw : w ∈ codes) (hl : 10 < w.len) (hmem : (w.len - 1, w.rev % 2 ^ (w.len - 1)) ∈ ps) :
    Table codes (w :: ws) ps (writeEntry sl ps w.len w.rev (leafEntry w.len w.sym)) := by
  have hrev := hfit.rev_lt w hw
  have hplace : IsPlace ps w.len w.rev := ⟨hrev, .inr ⟨hl, hmem⟩⟩
  have htree : 2 * ps.length ≤ sl.tree.length := by have := h.length_le hfit; rw [h.tree]; omega
  refine h.addLeaf hfit hw ((writeEntry_fast_length sl).trans h.fast) ((writeEntry_tree_length sl).trans h.tree)
    (writeEntry_nodes sl) (fun d hd hlt => h.mem_of_mem hmem hd (by omega)) (fun d p hplace' => ?_)
    fun k hk => writeEntry_tree_of_le hplace hk
  by_cases heq : (d, p) = (w.len, w.rev)
  · obtain ⟨rfl, rfl⟩ := Prod.mk.inj heq
    rw [readEntry_writeEntry_self hplace h.fast htree, if_pos (within_iff.mpr ⟨le_rfl, Nat.mod_eq_of_lt hrev⟩)]
  · rw [readEntry_writeEntry_ne hplace hplace' heq, if_neg fun hwithin => ?_]
    by_cases hd : d = 10
    · have := (within_iff.mp hwithin).1
      omega
    · obtain ⟨rfl, rfl⟩ := h.len_eq_of_within hfit hw hplace' (hplace'.lt_of_ne hd) hwithin
      exact heq rfl

theorem Table.enterLong {w : CodeWord} (hw : w ∈ codes) (hl : 10 < w.len) :
    ∃ ps', Table codes (w :: ws) ps' (enterLong sl w.sym w.len w.rev) := by
  have hin (d : Nat) (hd : 10 ≤ d) (hlt : d < w.len) : Inner codes (d, w.rev % 2 ^ d) := ⟨hd, w, hw, hlt, rfl⟩
  have hfast : w.rev % 2 ^ 10 < 2 ^ 10 := Nat.mod_lt _ (Nat.two_pow_pos _)
  obtain ⟨ps₁, hmem₁, h₁, -⟩ := h.step hfit (hin 10 le_rfl hl) ⟨hfast, .inl rfl⟩
  have hnode₁ := h₁.nodeOf_readEntry hfit hmem₁ ⟨hfast, .inl rfl⟩
  obtain ⟨ps₂, hmem₂, h₂, hnode₂⟩ := h₁.walkTree hfit (k := w.len - 11) (fun d hd hle => hin d hd (by omega)) le_rfl hmem₁
  rw [show 10 + (w.len - 11) = w.len - 1 by omega] at hmem₂ hnode₂
  have hslot : childSlot ps₂ w.len w.rev =
      2 * ps₂.idxOf (w.len - 1, w.rev % 2 ^ (w.len - 1)) + w.rev / 2 ^ (w.len - 1) % 2 := by
    rw [← childSlot_succ, show w.len - 1 + 1 = w.len by omega, Nat.mod_eq_of_lt (hfit.rev_lt w hw)]
  rw [← hnode₂] at hslot
  rw [enterLong_eq_writeEntry (by omega) hnode₁ hslot]
  exact ⟨ps₂, h₂.putLeaf hfit hw hl hmem₂⟩

/-- A symbol is entered with its code, or is unused. -/
theorem Table.enterSymbol {w : CodeWord} (hw : w ∈ codes) {code : Nat} (hrev : w.rev = revBits w.len code) :
    ∃ ps', Table codes (w :: ws) ps' (enterSymbol sl w.sym w.len code) := by
  rw [Machine.enterSymbol, if_neg (hfit.len_pos w hw).ne', ← hrev]
  split
  · next hl => exact ⟨ps, h.enterShort hfit hw hl⟩
  · next hl => exact h.enterLong hfit hw (Nat.lt_of_not_le hl)

end

/-! The whole table (R264). -/

/-- A symbol of a table, as HUF_DTABLE goes through them. -/
def wordOf (e : (Nat × Nat) × Nat) : CodeWord := { sym := e.2, len := e.1.1, rev := revBits e.1.1 e.1.2 }

/-- Going through the symbols enters the codes of the used ones. -/
theorem Table.enterSymbols {codes : List CodeWord} (hfit : FitCodes codes) (es : List ((Nat × Nat) × Nat)) {ws : List CodeWord}
    {ps : List (Nat × Nat)} {sl : Slot} (h : Table codes ws ps sl)
    (hes : ∀ w ∈ (es.filter (fun e => 0 < e.1.1)).map wordOf, w ∈ codes) :
    ∃ ps', Table codes (((es.filter (fun e => 0 < e.1.1)).map wordOf).reverse ++ ws) ps'
      (es.foldl (fun sl e => Machine.enterSymbol sl e.2 e.1.1 e.1.2) sl) := by
  induction es generalizing ws ps sl with
  | nil => exact ⟨ps, h⟩
  | cons e es ih =>
    rw [List.foldl_cons]
    by_cases he : 0 < e.1.1
    · simp only [List.filter_cons, he, decide_true, if_true, List.map_cons, List.forall_mem_cons] at hes ⊢
      obtain ⟨ps', h'⟩ := h.enterSymbol hfit hes.1 (code := e.1.2) rfl
      rw [List.reverse_cons, List.append_assoc]
      exact ih h' hes.2
    · have hunused : Machine.enterSymbol sl e.2 e.1.1 e.1.2 = sl := by
        rw [Machine.enterSymbol, if_pos (Nat.eq_zero_of_not_pos he)]
      simp only [List.filter_cons, he, decide_false, Bool.false_eq_true, if_false] at hes ⊢
      rw [hunused]
      exact ih h hes

/-- A table with no symbol entered yet. -/
theorem table_of_empty (codes : List CodeWord) (n used : Nat) (len : List Nat) :
    Table codes [] [] { Slot.empty with n := n, len := len, used := used } where
  fast := List.length_replicate
  tree := List.length_replicate
  nodes := rfl
  nodup := List.nodup_nil
  inner _ hq := absurd hq List.not_mem_nil
  parent _ _ hmem := absurd hmem List.not_mem_nil
  sub _ hw := absurd hw List.not_mem_nil
  cover _ hw := absurd hw List.not_mem_nil
  entry d p hplace := by
    obtain ⟨hp, rfl | ⟨-, hmem⟩⟩ := hplace
    · rw [readEntry, if_pos rfl]
      exact List.getD_replicate _ hp
    · exact absurd hmem List.not_mem_nil
  unused k _ := by
    rw [List.getD_eq_getElem?_getD, Slot.empty, List.getElem?_replicate]
    split <;> rfl

/-- The table of a vector holds all its codes. -/
theorem table_tableOf {len : List Nat} (hfit : FitCodes (codeWords len)) :
    ∃ ps, Table (codeWords len) (codeWords len).reverse ps (tableOf len) := by
  have h := (table_of_empty (codeWords len) len.length (usedCount len)
    (len ++ List.replicate (Config.maxSyms - len.length) 0)).enterSymbols hfit
    (len.zip (canonicalCodes len)).zipIdx fun w hw => hw
  rwa [List.append_nil] at h

end Sys2Proof.Proofs
end

section
/-! SUPPORT. The walk of a table (42_huffman.md R271): it ends in the entry of the code that the bits begin with. -/

namespace Sys2Proof.Proofs

open Sys2Proof.Machine Sys2Proof.Claims

theorem walkFrom_of_not_node (sl : Slot) (b fuel k : Nat) {e : Half} (he : e.getLsbD 15 = false) :
    walkFrom sl b fuel k e = e := by
  cases fuel with
  | zero => rfl
  | succ fuel => rw [walkFrom, he, if_neg Bool.false_ne_true]

theorem leafAt_of_within {ws : List CodeWord} (hfree : PrefixFree ws) {w : CodeWord} {d p : Nat} (hw : w ∈ ws)
    (hwithin : w.within p d = true) : leafAt ws d p = leafEntry w.len w.sym := by
  rw [leafAt, hfree.find?_within hw hwithin]

section
variable {codes ws : List CodeWord} {ps : List (Nat × Nat)} {sl : Slot} (hfit : FitCodes codes) (h : Table codes ws ps sl)
include h

/-- A bit further on than a place that is no node, no other code ends. -/
theorem Table.leafAt_succ {b d : Nat} (hd : 10 ≤ d) (hmem : (d, b % 2 ^ d) ∉ ps) :
    leafAt ws (d + 1) (b % 2 ^ (d + 1)) = leafAt ws d (b % 2 ^ d) := by
  have hwithin : ∀ w ∈ ws, w.within (b % 2 ^ (d + 1)) (d + 1) = w.within (b % 2 ^ d) d := fun w hw => by
    rw [Bool.eq_iff_iff, within_iff, within_iff]
    by_cases hlen : w.len ≤ d
    · rw [Nat.mod_mod_of_dvd _ (Nat.pow_dvd_pow 2 hlen), Nat.mod_mod_of_dvd _ (Nat.pow_dvd_pow 2 (by omega))]
      exact and_congr_left' (iff_of_true (by omega) hlen)
    · refine iff_of_false (fun ⟨hlen', hrev⟩ => hmem ?_) fun ⟨hlen', _⟩ => hlen hlen'
      have hcover := h.cover w hw d hd (by omega)
      rwa [← hrev, Nat.mod_mod_of_dvd _ (Nat.pow_dvd_pow 2 (by omega)), Nat.mod_mod_of_dvd _ (Nat.pow_dvd_pow 2 (by omega))]
        at hcover
  rw [leafAt, leafAt, List.find?_congr hwithin]

include hfit

theorem Table.not_node_leafAt (d p : Nat) : (leafAt ws d p).getLsbD 15 = false := by
  rw [leafAt, getLsbD_fifteen]
  split
  · next w hw =>
    have hmem := h.sub w (List.mem_of_find?_eq_some hw)
    have := hfit.len_le w hmem
    have := hfit.sym_lt w hmem
    rw [leafEntry_toNat (by omega) (by omega)]
    exact decide_eq_false (by omega)
  · rfl

/-- From the entry of a place the walk ends in the entry `fuel` bits on. -/
theorem Table.walkFrom_entryAt (b fuel d : Nat) (hd : 10 ≤ d) :
    walkFrom sl b fuel d (entryAt ws ps d (b % 2 ^ d)) = entryAt ws ps (d + fuel) (b % 2 ^ (d + fuel)) := by
  induction fuel generalizing d with
  | zero => rfl
  | succ fuel ih =>
    have hnext := ih (d + 1) (by omega)
    rw [Nat.add_right_comm, Nat.add_assoc] at hnext
    rw [← hnext]
    by_cases hmem : (d, b % 2 ^ d) ∈ ps
    · have hle := h.length_le hfit
      have hlt := List.idxOf_lt_length_of_mem hmem
      have hchild := h.entry (d + 1) _ (isPlace_of_mem hd hmem)
      rw [readEntry, if_neg (by omega), childSlot_succ] at hchild
      have hnode : (nodeEntry (ps.idxOf (d, b % 2 ^ d))).getLsbD 15 = true := by
        rw [getLsbD_fifteen, nodeEntry_toNat (by omega)]
        exact decide_eq_true (by omega)
      rw [entryAt, if_pos hmem, walkFrom, hnode, if_pos rfl, ← nodeOf, nodeOf_nodeEntry (by omega), hchild]
    · have hmem' : (d + 1, b % 2 ^ (d + 1)) ∉ ps := fun hmem' => hmem (h.mem_of_mem hmem' hd (by omega))
      rw [entryAt, if_neg hmem, entryAt, if_neg hmem', h.leafAt_succ hd hmem,
        walkFrom_of_not_node _ _ _ _ (h.not_node_leafAt hfit _ _), walkFrom_of_not_node _ _ _ _ (h.not_node_leafAt hfit _ _)]

/-- No node lies at the depth of the longest codes, where the walk ends. -/
theorem Table.tableWalk_eq (b : Nat) : tableWalk sl b = leafAt ws 15 (b % 2 ^ 15) := by
  have hfast := h.entry 10 (b % 2 ^ 10) ⟨Nat.mod_lt _ (Nat.two_pow_pos _), .inl rfl⟩
  rw [readEntry, if_pos rfl] at hfast
  have hnone : (15, b % 2 ^ 15) ∉ ps := fun hmem => by
    obtain ⟨-, w, hw, hlen, -⟩ := h.inner _ hmem
    have := hfit.len_le w hw
    dsimp only at hlen
    omega
  rw [tableWalk, show (1024 : Nat) = 2 ^ 10 from rfl, hfast, h.walkFrom_entryAt hfit b 5 10 le_rfl, entryAt, if_neg hnone]

end

/-- The walk agrees with the codes once all are entered. -/
theorem walkFollowsCodes_tableOf {len : List Nat} (hfit : FitCodes (codeWords len)) : WalkFollowsCodes (tableOf len) len := by
  intro b
  obtain ⟨ps, h⟩ := table_tableOf hfit
  have hmem (w : CodeWord) : w ∈ (codeWords len).reverse ↔ w ∈ codeWords len := List.mem_reverse
  have hfree : PrefixFree (codeWords len).reverse := fun v hv w hw => hfit.free v ((hmem v).mp hv) w ((hmem w).mp hw)
  have hwithin {w : CodeWord} (hw : w ∈ codeWords len) : w.within (b % 2 ^ 15) 15 = true ↔ b % 2 ^ w.len = w.rev := by
    rw [within_iff, Nat.mod_mod_of_dvd _ (Nat.pow_dvd_pow 2 (hfit.len_le w hw))]
    exact and_iff_right (hfit.len_le w hw)
  have hcode {i l : Nat} (hc : IsCode len i l (b % 2 ^ l)) : tableWalk (tableOf len) b = leafEntry l i := by
    have hw : ⟨i, l, b % 2 ^ l⟩ ∈ codeWords len := mem_codeWords.mpr hc
    rw [h.tableWalk_eq hfit, leafAt_of_within hfree ((hmem _).mpr hw) ((hwithin hw).mpr rfl)]
  have hnone (hno : ∀ i l, ¬ IsCode len i l (b % 2 ^ l)) : tableWalk (tableOf len) b = 0#16 := by
    rw [h.tableWalk_eq hfit]
    refine leafAt_eq_zero fun w hw => Bool.eq_false_iff.mpr fun hwb => hno w.sym w.len ?_
    rw [hmem] at hw
    rw [(hwithin hw).mp hwb]
    exact mem_codeWords.mp hw
  have hfits {i l : Nat} (hc : IsCode len i l (b % 2 ^ l)) : l ≤ 15 ∧ i < 512 :=
    have hw : ⟨i, l, b % 2 ^ l⟩ ∈ codeWords len := mem_codeWords.mpr hc
    ⟨hfit.len_le _ hw, hfit.sym_lt _ hw⟩
  by_cases hex : ∃ i l, IsCode len i l (b % 2 ^ l)
  · obtain ⟨i, l, hc⟩ := hex
    obtain ⟨hl, hi⟩ := hfits hc
    rw [hcode hc]
    refine ⟨fun i' l' hi' hl' => ⟨fun heq => ?_, fun hc' => ?_⟩, fun h0 => absurd h0 (leafEntry_ne_zero hl hi),
      fun hno => absurd hc (hno i l)⟩
    · obtain ⟨rfl, rfl⟩ := leafEntry_inj hl hi hl' (by omega) heq
      exact hc
    · exact (hcode hc).symm.trans (hcode hc')
  · push Not at hex
    rw [hnone hex]
    exact ⟨fun i l hi hl => iff_of_false (leafEntry_ne_zero hl (by omega)).symm (hex i l), iff_of_true rfl hex⟩

end Sys2Proof.Proofs
end

section
/-! SUPPORT. The tree has room for the nodes of every table that passes its checks (42_huffman.md R267), and HUF_DTABLE (R263,
R264). -/

namespace Sys2Proof.Proofs

open Sys2Proof.Machine Sys2Proof.Claims

/-! Capacity (R267). -/

theorem length_codeWords (len : List Nat) : (codeWords len).length = usedCount len := by
  have hfst : (len.zip (canonicalCodes len)).zipIdx.map (fun e => e.1.1) = len := by
    rw [← Function.comp_def Prod.fst Prod.fst, ← List.map_map, List.zipIdx_map_fst,
      List.map_fst_zip (length_canonicalCodes len).ge]
  rw [codeWords, List.length_map, ← List.countP_eq_length_filter, usedCount]
  conv_rhs => rw [← hfst, List.countP_map]
  rfl

/-- With at most one used symbol the Kraft sum is at most a half. -/
theorem kraft_le_usedCount_mul (len : List Nat) : kraft len ≤ usedCount len * 2 ^ 14 := by
  induction len with
  | nil => rfl
  | cons l len ih =>
    have hterm : kraftTerm l ≤ (if 0 < l then 1 else 0) * 2 ^ 14 := by
      obtain rfl | hl := Nat.eq_zero_or_pos l
      · exact le_rfl
      · rw [kraftTerm, if_neg hl.ne', if_pos hl, Nat.one_mul]
        exact Nat.pow_le_pow_right two_pos (by omega)
    rw [usedCount, List.countP_cons, Nat.add_mul, Nat.add_comm, kraft, List.map_cons, List.sum_cons]
    exact Nat.add_le_add (by simpa using hterm) ih

theorem validLengths_of_checked {len : List Nat} (hl : ∀ l ∈ len, l ≤ 15) (hk : 2 ≤ usedCount len → kraft len = 2 ^ 15) :
    ValidLengths len := by
  refine ⟨hl, ?_⟩
  rw [scaledKraft_eq_kraft]
  obtain hu | hu := Nat.lt_or_ge (usedCount len) 2
  · have := kraft_le_usedCount_mul len
    omega
  · exact (hk hu).le

/-- A list of places without repetition is no longer than a set that holds them. -/
theorem length_le_card {ps : List (Nat × Nat)} (hnodup : ps.Nodup) {s : Finset (Nat × Nat)} (h : ∀ q ∈ ps, q ∈ s) :
    ps.length ≤ s.card := by
  rw [← List.toFinset_card_of_nodup hnodup]
  exact Finset.card_le_card fun q hq => h q (List.mem_toFinset.mp hq)

/-- Each code has at most five nodes below the fast table. -/
theorem length_le_five_mul {codes : List CodeWord} (hlen : ∀ w ∈ codes, w.len ≤ 15) {ps : List (Nat × Nat)} (hnodup : ps.Nodup)
    (hinner : ∀ q ∈ ps, Inner codes q) : ps.length ≤ 5 * codes.length := by
  classical
  refine (length_le_card hnodup (s := (Finset.Ico 10 15 ×ˢ codes.toFinset).image fun x => (x.1, x.2.rev % 2 ^ x.1))
    fun q hq => ?_).trans ?_
  · obtain ⟨hd, w, hw, hdlen, hrev⟩ := hinner q hq
    have := hlen w hw
    refine Finset.mem_image.mpr ⟨(q.1, w), ?_, by rw [hrev]⟩
    simp only [Finset.mem_product, Finset.mem_Ico, List.mem_toFinset]
    exact ⟨⟨hd, by omega⟩, hw⟩
  · refine Finset.card_image_le.trans ?_
    rw [Finset.card_product, Nat.card_Ico]
    exact Nat.mul_le_mul_left 5 codes.toFinset_card_le

/-- The nodes at a depth lie past the codes of at most so many bits. -/
theorem inner_codeWords {len : List Nat} (h : ValidLengths len) {d p : Nat} (hin : Inner (codeWords len) (d, p)) :
    10 ≤ d ∧ d < 15 ∧ ∃ c, codesEnd len d ≤ c ∧ c < 2 ^ d ∧ p = revBits d c := by
  obtain ⟨hd, w, hw, hlen, hp⟩ := hin
  obtain ⟨hi, hl, hrev⟩ := mem_codeWords.mp hw
  have hl15 := h.1 _ (List.mem_of_getElem? hi)
  dsimp only at hlen hp
  refine ⟨hd, by omega, codeOf len w.sym / 2 ^ (w.len - d), codesEnd_le_codeOf_div hi hl15 hlen, ?_, ?_⟩
  · rw [Nat.div_lt_iff_lt_mul (Nat.two_pow_pos _), ← Nat.pow_add, Nat.add_sub_cancel' hlen.le]
    exact codeOf_lt_two_pow h hi hl
  · rw [← hp, hrev, revBits_mod_two_pow hlen.le]

/-- A complete code has as many nodes at a depth as its codes leave codes of so many bits free. -/
theorem length_le_of_complete {len : List Nat} (hl : ∀ l ∈ len, l ≤ 15) (hk : kraft len = 2 ^ 15) {ps : List (Nat × Nat)}
    (hnodup : ps.Nodup) (hinner : ∀ q ∈ ps, Inner (codeWords len) q) : ps.length ≤ len.length := by
  have hvalid : ValidLengths len := ⟨hl, hk.le⟩
  have hcard : ps.length ≤ ∑ d ∈ Finset.Ico 10 15, (2 ^ d - codesEnd len d) := by
    refine (length_le_card hnodup (s := (Finset.Ico 10 15).biUnion fun d =>
      (Finset.Ico (codesEnd len d) (2 ^ d)).image fun c => (d, revBits d c)) fun q hq => ?_).trans
      (Finset.card_biUnion_le.trans (Finset.sum_le_sum fun d _ => Finset.card_image_le.trans (Nat.card_Ico _ _).le))
    obtain ⟨hd, hd15, c, hc, hc2, hp⟩ := inner_codeWords hvalid (hinner q hq)
    simp only [Finset.mem_biUnion, Finset.mem_image, Finset.mem_Ico]
    exact ⟨q.1, ⟨hd, hd15⟩, c, ⟨hc, hc2⟩, by rw [← hp]⟩
  have hcount : ((List.range' 1 15).map fun d => len.count d * 1).sum ≤ len.length := by
    rw [sum_count_mul (fun _ => 1)]
    refine (List.sum_le_card_nsmul _ 1 fun x hx => ?_).trans (by simp)
    obtain ⟨l, -, rfl⟩ := List.mem_map.mp hx
    split <;> decide
  have h11 : codesEnd len 11 = 2 * codesEnd len 10 + len.count 11 := codesEnd_succ len 10
  have h12 : codesEnd len 12 = 2 * codesEnd len 11 + len.count 12 := codesEnd_succ len 11
  have h13 : codesEnd len 13 = 2 * codesEnd len 12 + len.count 13 := codesEnd_succ len 12
  have h14 : codesEnd len 14 = 2 * codesEnd len 13 + len.count 14 := codesEnd_succ len 13
  have h15 : codesEnd len 15 = 2 * codesEnd len 14 + len.count 15 := codesEnd_succ len 14
  rw [codesEnd_fifteen hl, hk] at h15
  simp only [Finset.sum_Ico_succ_top (show 10 ≤ 14 by decide), Finset.sum_Ico_succ_top (show 10 ≤ 13 by decide),
    Finset.sum_Ico_succ_top (show 10 ≤ 12 by decide), Finset.sum_Ico_succ_top (show 10 ≤ 11 by decide),
    Finset.sum_Ico_succ_top (show 10 ≤ 10 by decide), Finset.Ico_self, Finset.sum_empty] at hcard
  simp [List.range'] at hcount
  omega

/-- The codes of a vector that passes the checks of dtable_build fit in a slot. -/
theorem fitCodes_codeWords {len : List Nat} (hn : len.length ≤ 288) (hl : ∀ l ∈ len, l ≤ 15)
    (hk : 2 ≤ usedCount len → kraft len = 2 ^ 15) : FitCodes (codeWords len) where
  free := prefixFree_codeWords (validLengths_of_checked hl hk)
  sym_lt w hw := by
    have := (List.getElem?_eq_some_iff.mp (mem_codeWords.mp hw).1).1
    omega
  len_pos w hw := (mem_codeWords.mp hw).2.1
  len_le w hw := hl _ (List.mem_of_getElem? (mem_codeWords.mp hw).1)
  rev_lt w hw := by
    rw [(mem_codeWords.mp hw).2.2]
    exact revBits_lt _ _
  capacity ps hnodup hinner := by
    obtain hu | hu := Nat.lt_or_ge (usedCount len) 2
    · have := length_le_five_mul (fun w hw => hl _ (List.mem_of_getElem? (mem_codeWords.mp hw).1)) hnodup hinner
      rw [length_codeWords] at this
      omega
    · exact (length_le_of_complete hl (hk hu) hnodup hinner).trans hn

/-! dtable_build's answers (R264). -/

section
variable {len : List Nat}

theorem dtableBuild_of_bad {i : Nat} (hi : 15 < len.getD i 0) (hbelow : ∀ j < i, len.getD j 0 ≤ 15) :
    dtableBuild len = .error (.badLength, i) := by
  rw [dtableBuild, badLength_eq_some hi hbelow]

theorem dtableBuild_of_oversubscribed (hl : ∀ l ∈ len, l ≤ 15) (hu : 2 ≤ usedCount len) (hk : 2 ^ 15 < kraft len) :
    dtableBuild len = .error (.oversubscribed, kraft len) := by
  rw [dtableBuild, badLength_eq_none hl]
  exact if_pos ⟨hu, hk⟩

theorem dtableBuild_of_incomplete (hl : ∀ l ∈ len, l ≤ 15) (hu : 2 ≤ usedCount len) (hk : kraft len < 2 ^ 15) :
    dtableBuild len = .error (.incomplete, kraft len) := by
  rw [dtableBuild, badLength_eq_none hl]
  exact (if_neg fun h => Nat.lt_asymm hk h.2).trans (if_pos ⟨hu, hk⟩)

theorem dtableBuild_of_valid (hl : ∀ l ∈ len, l ≤ 15) (hk : 2 ≤ usedCount len → kraft len = 2 ^ 15) :
    dtableBuild len = .ok (tableOf len) := by
  rw [dtableBuild, badLength_eq_none hl]
  exact (if_neg fun h => Nat.ne_of_gt h.2 (hk h.1)).trans (if_neg fun h => Nat.ne_of_lt h.2 (hk h.1))

end

/-- Entering codes keeps the lengths and counts with which the table starts. -/
theorem tableOf_fields (len : List Nat) :
    (tableOf len).n = len.length ∧ (tableOf len).len.take (tableOf len).n = len ∧ (tableOf len).used = usedCount len := by
  have hshape : SameShape { Slot.empty with
      n := len.length, len := len ++ List.replicate (Config.maxSyms - len.length) 0, used := usedCount len } (tableOf len) :=
    sameShape_enterSymbols _ _
  obtain ⟨hn, hlen, hused, -, -⟩ := hshape
  refine ⟨hn, ?_, hused⟩
  rw [hlen, hn]
  exact List.take_left

/-! HUF_DTABLE (R263). -/

theorem active_iff (d : Dec) : d.phase.active = true ↔ openStream d := by
  simp [DecPhase.active, openStream, and_assoc]

/-- What HUF_DTABLE does with the lengths it has read. -/
def finishBuild (k : Fin 4) (len : List Nat) : Cmd Finish := do
  modify (State.setSlot · k (builtSlot (dtableBuild len)))
  finishTable (dtableBuild len)

theorem runCmd_finishBuild_error {len : List Nat} {c : Cause} {detail : Nat} (h : dtableBuild len = .error (c, detail))
    (k : Fin 4) (s : State) :
    runCmd (finishBuild k len) s =
      .next (raised { s with slots := s.slots.set k Slot.empty } c.code.toByte c.num (BitVec.ofNat 32 detail)) := by
  rw [finishBuild, h]
  exact runCmd_of_raise (bind_ok (modify_run (State.setSlot · k Slot.empty) s))

theorem runCmd_finishBuild_ok {len : List Nat} {sl : Slot} (h : dtableBuild len = .ok sl) (k : Fin 4) (s : State) :
    runCmd (finishBuild k len) s =
      .next (completed { s with slots := s.slots.set k sl } 0x00#8 (BitVec.ofNat 32 sl.used) (BitVec.ofNat 32 sl.nodes)) := by
  rw [finishBuild, h]
  exact runCmd_modify_finish (State.setSlot · k sl) sl.used sl.nodes s

theorem exec_hufDtable (k : Fin 4) (s : State) : exec (.hufDtable k) s = runCmd (do
    deny (decide (k.val ≤ 2) && s.dec.phase.active) .decActive k.val
    deny (decide (288 < s.args.a1.toNat)) .badCount s.args.a1.toNat
    readInput s.args.a0.toNat s.args.a1.toNat fun bytes => finishBuild k (bytes.map BitVec.toNat)) s := rfl

/-- Settles O30: with its checks passed HUF_DTABLE builds the table of the lengths read, whose walk follows the codes. -/
theorem hufDtableBuildsOrEmptiesTheSlot : Obligations.HufDtableBuildsOrEmptiesTheSlot := by
  intro s k len
  refine ⟨fun hk hopen => ?_, fun hfree hn hin hlen => ?_⟩
  · have hdeny : (decide (k.val ≤ 2) && s.dec.phase.active) = true := by
      rw [decide_eq_true hk, (active_iff s.dec).mpr hopen]
      rfl
    rw [exec_hufDtable, hdeny]
    exact runCmd_of_raise (bind_of_raise (deny_true .decActive _ s))
  have hallow : (decide (k.val ≤ 2) && s.dec.phase.active) = false := by
    rw [Bool.and_eq_false_iff, decide_eq_false_iff_not, Bool.eq_false_iff, ne_eq, active_iff]
    exact not_or_of_imp hfree
  have hexec : exec (.hufDtable k) s = runCmd (finishBuild k len) s := by
    rw [exec_hufDtable, hallow, decide_eq_false (Nat.not_lt.mpr hn), runCmd_congr (bind_ok (deny_false _ _ _)),
      runCmd_congr (bind_ok (deny_false _ _ _)), runCmd_congr (readInput_of_readable _ hin), ← hlen]
  rw [hexec]
  refine ⟨fun i hi hbelow => runCmd_finishBuild_error (dtableBuild_of_bad hi hbelow) k s,
    fun hl hu hk => runCmd_finishBuild_error (dtableBuild_of_oversubscribed hl hu hk) k s,
    fun hl hu hk => runCmd_finishBuild_error (dtableBuild_of_incomplete hl hu hk) k s, fun hl hk => ?_⟩
  obtain ⟨hcount, hlens, hused⟩ := tableOf_fields len
  have hrun := runCmd_finishBuild_ok (dtableBuild_of_valid hl hk) k s
  rw [hused] at hrun
  have hlength : len.length ≤ 288 := by rw [hlen, List.length_map, length_bytesAt]; exact hn
  exact ⟨tableOf len, hrun, rfl, hcount, hlens, hused, walkFollowsCodes_tableOf (fitCodes_codeWords hlength hl hk)⟩

end Sys2Proof.Proofs
end

section
/-! SUPPORT. The match search: the comparisons of its walk, whose result is the first of the longest (43_lz77.md R304). -/

namespace Sys2Proof.Proofs

open Sys2Proof.Machine Sys2Proof.Claims

/-! How many bytes agree. -/

@[simp] theorem agreeing_zero (as bs : List Byte) : agreeing 0 as bs = 0 := by rw [agreeing]; simp

@[simp] theorem agreeing_nil_left (cap : Nat) (bs : List Byte) : agreeing cap [] bs = 0 := by rw [agreeing]; simp

@[simp] theorem agreeing_nil_right (cap : Nat) (as : List Byte) : agreeing cap as [] = 0 := by rw [agreeing]; simp

@[simp] theorem agreeing_cons (cap : Nat) (a b : Byte) (as bs : List Byte) :
    agreeing (cap + 1) (a :: as) (b :: bs) = if a = b then agreeing cap as bs + 1 else 0 := rfl

theorem le_agreeing_iff {n cap : Nat} {as bs : List Byte} :
    n ≤ agreeing cap as bs ↔ n ≤ cap ∧ n ≤ as.length ∧ n ≤ bs.length ∧ ∀ k < n, as[k]? = bs[k]? := by
  induction cap generalizing n as bs with
  | zero => simpa using fun hn => by simp [hn]
  | succ cap ih =>
    obtain _ | n := n
    · simp
    obtain _ | ⟨a, as⟩ := as
    · simp
    obtain _ | ⟨b, bs⟩ := bs
    · simp
    have hbytes : (∀ k < n + 1, (a :: as)[k]? = (b :: bs)[k]?) ↔ a = b ∧ ∀ k < n, as[k]? = bs[k]? := by
      simp only [Nat.forall_lt_succ_left, List.getElem?_cons_zero, List.getElem?_cons_succ, Option.some.injEq]
    rw [agreeing_cons, hbytes]
    split
    · next heq => simp [ih, heq]
    · next hne => simp [hne]

theorem agreeing_le (cap : Nat) (as bs : List Byte) : agreeing cap as bs ≤ cap := (le_agreeing_iff.mp le_rfl).1

theorem agreeing_take (cap : Nat) (as bs : List Byte) : agreeing cap (as.take cap) (bs.take cap) = agreeing cap as bs := by
  induction cap generalizing as bs with
  | zero => simp
  | succ cap ih => cases as <;> cases bs <;> simp [ih]

theorem agreeing_congr {cap : Nat} {as as' bs bs' : List Byte} (ha : as.take cap = as'.take cap)
    (hb : bs.take cap = bs'.take cap) : agreeing cap as bs = agreeing cap as' bs' := by
  rw [← agreeing_take, ha, hb, agreeing_take]

/-- What counting bytes says of two positions of one sequence. -/
theorem le_agreeing_drop_iff {S : List Byte} {q p n cap : Nat} (hq : q ≤ p) (hp : p + cap ≤ S.length) :
    n ≤ agreeing cap (S.drop q) (S.drop p) ↔ n ≤ cap ∧ Agree S q p n := by
  simp only [le_agreeing_iff, List.length_drop, List.getElem?_drop, Agree]
  constructor
  · rintro ⟨hcap, -, -, hagree⟩
    exact ⟨hcap, hagree⟩
  · rintro ⟨hcap, hagree⟩
    exact ⟨hcap, by omega, by omega, hagree⟩

/-! The hash of three bytes. -/

theorem chainHash_congr {bs bs' : List Byte} {n : Nat} (hn : 3 ≤ n) (h : bs.take n = bs'.take n) :
    chainHash bs = chainHash bs' := by
  have hbyte (i : Nat) (hi : i < 3) : bs.getD i 0#8 = bs'.getD i 0#8 := by
    rw [List.getD_eq_getElem?_getD, ← List.getElem?_take_of_lt (Nat.lt_of_lt_of_le hi hn), h,
      List.getElem?_take_of_lt (Nat.lt_of_lt_of_le hi hn), List.getD_eq_getElem?_getD]
  rw [chainHash, hbyte 0 (by decide), hbyte 1 (by decide), hbyte 2 (by decide), chainHash]

theorem chainHash_drop (S : List Byte) (q : Nat) : chainHash (S.drop q) = hashAt S q := by
  simp [chainHash, hash15, hashAt, byteOf, List.getD_eq_getElem?_getD]

/-! The comparisons of a walk. -/

/-- The comparisons a walk makes when nothing stops it: for each candidate on the chain its length and distance, in the walk's
order. -/
def comparisons (h : Word) (cur : List Byte) (maxlen : Nat) : List Byte → List Byte → Nat → List Match
  | [], _, _ => []
  | b :: back, here, dist =>
      if chainHash (b :: here) = h then
        { len := agreeing maxlen (b :: here) cur, dist := dist } :: comparisons h cur maxlen back (b :: here) (dist + 1)
      else comparisons h cur maxlen back (b :: here) (dist + 1)

/-- The best match so far after one more comparison. -/
def keepBetter (best m : Match) : Match := best.better m.len m.dist

/-- A match of the cap's length stays the best: no comparison says more. -/
theorem foldl_keepBetter_of_cap {maxlen : Nat} {best : Match} (hbest : best.len = maxlen) {ms : List Match}
    (hms : ∀ m ∈ ms, m.len ≤ maxlen) : ms.foldl keepBetter best = best := by
  induction ms with
  | nil => rfl
  | cons m ms ih =>
    obtain ⟨hm, hms⟩ := List.forall_mem_cons.mp hms
    rw [List.foldl_cons, keepBetter, Match.better, if_neg (by omega), ih hms]

section
variable {h : Word} {cur : List Byte} {maxlen : Nat}

theorem len_le_of_mem_comparisons {back here : List Byte} {dist : Nat} {m : Match}
    (hm : m ∈ comparisons h cur maxlen back here dist) : m.len ≤ maxlen := by
  induction back generalizing here dist with
  | nil => cases hm
  | cons b back ih =>
    rw [comparisons] at hm
    split at hm
    · obtain rfl | hm := List.mem_cons.mp hm
      · exact agreeing_le _ _ _
      · exact ih hm
    · exact ih hm

/-- The walk's bound and its stop at a match of the cap leave the best of its first comparisons. -/
theorem findWalk_eq_foldl (back here : List Byte) (dist probes : Nat) (best : Match) :
    findWalk h cur maxlen back here dist probes best =
      ((comparisons h cur maxlen back here dist).take probes).foldl keepBetter best := by
  induction back generalizing here dist probes best with
  | nil => rw [findWalk, comparisons, List.take_nil, List.foldl_nil]
  | cons b back ih =>
    rw [findWalk, comparisons]
    obtain _ | probes := probes
    · rfl
    rw [if_neg (Nat.succ_ne_zero _)]
    split
    · rw [List.take_succ_cons, List.foldl_cons]
      dsimp only
      split
      · next hcap =>
        exact (foldl_keepBetter_of_cap hcap fun m hm => len_le_of_mem_comparisons (List.mem_of_mem_take hm)).symm
      · exact ih _ _ _ _
    · exact ih _ _ _ _

/-- The comparisons see no byte beyond the cap. -/
theorem comparisons_congr {cur' here here' : List Byte} (hmax : 3 ≤ maxlen) (hcur : cur.take maxlen = cur'.take maxlen)
    (hhere : here.take maxlen = here'.take maxlen) (back : List Byte) (dist : Nat) :
    comparisons h cur maxlen back here dist = comparisons h cur' maxlen back here' dist := by
  induction back generalizing here here' dist with
  | nil => rfl
  | cons b back ih =>
    have hnext : (b :: here).take maxlen = (b :: here').take maxlen := by
      obtain ⟨k, rfl⟩ := Nat.exists_eq_add_of_le' hmax
      have := congrArg (List.take (k + 2)) hhere
      simpa [List.take_take] using this
    rw [comparisons, comparisons, chainHash_congr hmax hnext, agreeing_congr hnext hcur, ih hnext]

end

/-! The search's result. -/

/-- The comparisons of the search at `p`, of however many probes. -/
def searched (S : List Byte) (base p maxlen : Nat) : List Match :=
  comparisons (chainHash (S.drop p)) (S.drop p) maxlen ((S.take p).reverse.take (p - max base (p - 32768))) (S.drop p) 1

theorem find_of_lt_three {S : List Byte} {base p maxlen probes : Nat} (hmax : maxlen < 3) :
    find S base p maxlen probes = Match.none := if_pos (.inl hmax)

theorem find_eq_foldl {S : List Byte} {base p maxlen : Nat} (hmax : 3 ≤ maxlen) (probes : Nat) :
    find S base p maxlen probes = ((searched S base p maxlen).take probes).foldl keepBetter Match.none := by
  obtain rfl | hprobes := Nat.eq_zero_or_pos probes
  · exact if_pos (.inr rfl)
  · rw [find, if_neg (not_or.mpr ⟨Nat.not_lt.mpr hmax, hprobes.ne'⟩), findWalk_eq_foldl]
    rfl

/-- Keeping the better gives the first of the longest. -/
theorem foldl_keepBetter_mem_argmax (best : Match) (ms : List Match) :
    ms.foldl keepBetter best ∈ (best :: ms).argmax Match.len := by
  induction ms generalizing best with
  | nil => rfl
  | cons m ms ih =>
    have hstep : (best :: m :: ms).argmax Match.len = (keepBetter best m :: ms).argmax Match.len := by
      simp only [List.argmax, List.foldl_cons, List.argAux, keepBetter, Match.better]
      split <;> rfl
    rw [hstep]
    exact ih _

/-- The search gives the first of the longest among no match and its first `probes` comparisons. -/
theorem find_mem_argmax {S : List Byte} {base p maxlen : Nat} (hmax : 3 ≤ maxlen) (probes : Nat) :
    find S base p maxlen probes ∈ (Match.none :: (searched S base p maxlen).take probes).argmax Match.len := by
  rw [find_eq_foldl hmax]
  exact foldl_keepBetter_mem_argmax _ _

theorem find_len_mono (S : List Byte) (base p maxlen : Nat) {few many : Nat} (h : few ≤ many) :
    (find S base p maxlen few).len ≤ (find S base p maxlen many).len := by
  obtain hmax | hmax := Nat.lt_or_ge maxlen 3
  · rw [find_of_lt_three hmax, find_of_lt_three hmax]
  · have hsub := List.cons_subset_cons Match.none (List.take_subset_take_left (searched S base p maxlen) h)
    exact List.le_of_mem_argmax (hsub (List.argmax_mem (find_mem_argmax hmax few))) (find_mem_argmax hmax many)

/-- Of the longest the search gives the nearest, where the distances rise. -/
theorem dist_le_of_mem_argmax {ms : List Match} (hrise : ms.Pairwise fun m m' => m.dist < m'.dist) {r m : Match}
    (hr : r ∈ ms.argmax Match.len) (hm : m ∈ ms) (hlen : r.len ≤ m.len) : r.dist ≤ m.dist := by
  have hidx := List.index_of_argmax hr hm hlen
  have hrlt := List.idxOf_lt_length_of_mem (List.argmax_mem hr)
  have hmlt := List.idxOf_lt_length_of_mem hm
  obtain heq | hlt := Nat.eq_or_lt_of_le hidx
  · rw [(List.idxOf_inj (List.argmax_mem hr)).mp heq]
  · have := List.pairwise_iff_getElem.mp hrise _ _ hrlt hmlt hlt
    rw [List.getElem_idxOf, List.getElem_idxOf] at this
    exact this.le

end Sys2Proof.Proofs
end

section
/-! SUPPORT. The candidates of a search by their positions (43_lz77.md R304). -/

namespace Sys2Proof.Proofs

open Sys2Proof.Machine Sys2Proof.Claims

/-- The positions of p's chain from `lo` to below `q`, the nearest to `q` first. -/
def chainBelow (S : List Byte) (lo p q : Nat) : List Nat :=
  ((List.range q).filter fun c => decide (lo ≤ c) && hashAt S c == hashAt S p).reverse

/-- The comparison of two positions. -/
def compareAt (S : List Byte) (p maxlen q : Nat) : Match :=
  { len := agreeing maxlen (S.drop q) (S.drop p), dist := p - q }

theorem mem_chainBelow {S : List Byte} {lo p q c : Nat} : c ∈ chainBelow S lo p q ↔ c < q ∧ lo ≤ c ∧ hashAt S c = hashAt S p := by
  simp [chainBelow]

theorem chainBelow_of_le (S : List Byte) {lo q : Nat} (p : Nat) (h : q ≤ lo) : chainBelow S lo p q = [] :=
  List.eq_nil_iff_forall_not_mem.mpr fun c hc => by
    obtain ⟨hcq, hlo, -⟩ := mem_chainBelow.mp hc
    omega

theorem chainBelow_succ {S : List Byte} {lo q : Nat} (p : Nat) (h : lo ≤ q) :
    chainBelow S lo p (q + 1) = if hashAt S q = hashAt S p then q :: chainBelow S lo p q else chainBelow S lo p q := by
  rw [chainBelow, List.range_succ, List.filter_append, List.reverse_append]
  split <;> simp [chainBelow, *]

theorem pairwise_chainBelow (S : List Byte) (lo p q : Nat) : (chainBelow S lo p q).Pairwise (· > ·) :=
  List.pairwise_reverse.mpr (List.pairwise_lt_range.filter _)

/-- In a falling list, a member stands among the first `n` when fewer than `n` members are above it. -/
theorem mem_take_iff_countP_lt {L : List Nat} (hL : L.Pairwise (· > ·)) {x n : Nat} :
    x ∈ L.take n ↔ x ∈ L ∧ L.countP (fun y => decide (x < y)) < n := by
  induction L generalizing n with
  | nil => simp
  | cons a L ih =>
    obtain ⟨ha, hL⟩ := List.pairwise_cons.mp hL
    cases n with
    | zero => simp
    | succ n =>
      rw [List.take_succ_cons, List.mem_cons, ih hL, List.mem_cons, List.countP_cons]
      by_cases hx : x = a
      · have hnone : L.countP (fun y => decide (x < y)) = 0 :=
          List.countP_eq_zero.mpr fun y hy => by simpa [hx] using (ha y hy).le
        simp [hx, hx ▸ hnone]
      · simp only [hx, false_or, and_congr_right_iff]
        intro hmem
        simp [ha x hmem]

/-- The candidates among the first `probes` of the chain are those that R304 counts. -/
theorem mem_take_chainBelow {S : List Byte} {base p probes q : Nat} :
    q ∈ (chainBelow S (max base (p - 32768)) p p).take probes ↔ Probed S base p probes q := by
  have hlo : max base (p - 32768) ≤ q ↔ base ≤ q ∧ p ≤ q + 32768 := by omega
  have hcount (h : max base (p - 32768) ≤ q) : (chainBelow S (max base (p - 32768)) p p).countP (fun c => decide (q < c)) =
      (List.range p).countP (fun c => decide (q < c) && hashAt S c == hashAt S p) := by
    rw [chainBelow, List.countP_reverse, List.countP_filter]
    refine List.countP_congr fun c _ => ?_
    simp only [Bool.and_eq_true, decide_eq_true_eq]
    exact ⟨fun ⟨hqc, _, hhash⟩ => ⟨hqc, hhash⟩, fun ⟨hqc, hhash⟩ => ⟨hqc, by omega, hhash⟩⟩
  rw [mem_take_iff_countP_lt (pairwise_chainBelow S _ p p), mem_chainBelow, Probed]
  constructor
  · rintro ⟨⟨hq, hin, hhash⟩, hfew⟩
    obtain ⟨hbase, hwindow⟩ := hlo.mp hin
    exact ⟨hq, hbase, hwindow, hhash, hcount hin ▸ hfew⟩
  · rintro ⟨hq, hbase, hwindow, hhash, hfew⟩
    have hin := hlo.mpr ⟨hbase, hwindow⟩
    exact ⟨⟨hq, hin, hhash⟩, hcount hin ▸ hfew⟩

/-- The walk down from `q` compares the positions of p's chain below it. -/
theorem comparisons_eq_map {S : List Byte} {p q : Nat} (lo maxlen : Nat) (hq : q ≤ p) (hp : p ≤ S.length) :
    comparisons (hashAt S p) (S.drop p) maxlen ((S.take q).reverse.take (q - lo)) (S.drop q) (p - q + 1) =
      (chainBelow S lo p q).map (compareAt S p maxlen) := by
  induction q with
  | zero =>
    rw [List.take_zero, List.reverse_nil, List.take_nil, comparisons, chainBelow_of_le S p (Nat.zero_le lo), List.map_nil]
  | succ q ih =>
    obtain hlo | hlo := Nat.lt_or_ge q lo
    · rw [Nat.sub_eq_zero_of_le hlo, List.take_zero, comparisons, chainBelow_of_le S p hlo, List.map_nil]
    have hback : (S.take (q + 1)).reverse.take (q + 1 - lo) = S[q] :: (S.take q).reverse.take (q - lo) := by
      rw [List.take_succ_eq_append_getElem, List.reverse_append, Nat.succ_sub hlo]
      rfl
    have hhere : S[q] :: S.drop (q + 1) = S.drop q := List.cons_getElem_drop_succ
    have hdist : p - (q + 1) + 1 = p - q := by omega
    rw [hback, comparisons, hhere, hdist, chainHash_drop, ih (Nat.le_of_succ_le hq), chainBelow_succ p hlo]
    split <;> rfl

theorem searched_eq_map {S : List Byte} {base p maxlen : Nat} (hp : p ≤ S.length) :
    searched S base p maxlen = (chainBelow S (max base (p - 32768)) p p).map (compareAt S p maxlen) := by
  rw [← comparisons_eq_map _ _ le_rfl hp, Nat.sub_self, ← chainHash_drop]
  rfl

theorem mem_take_searched {S : List Byte} {base p maxlen probes : Nat} (hp : p ≤ S.length) {m : Match} :
    m ∈ (searched S base p maxlen).take probes ↔ ∃ q, Probed S base p probes q ∧ compareAt S p maxlen q = m := by
  simp only [searched_eq_map hp, ← List.map_take, List.mem_map, mem_take_chainBelow]

/-- No match at distance 0 and then the candidates, from the nearest on: their distances rise. -/
theorem pairwise_dist_searched {S : List Byte} {base p maxlen : Nat} (hp : p ≤ S.length) (probes : Nat) :
    (Match.none :: (searched S base p maxlen).take probes).Pairwise fun m m' => m.dist < m'.dist := by
  refine List.pairwise_cons.mpr ⟨fun m hm => ?_, List.Pairwise.take ?_⟩
  · obtain ⟨q, ⟨hq, -⟩, rfl⟩ := (mem_take_searched hp).mp hm
    exact Nat.sub_pos_of_lt hq
  · rw [searched_eq_map hp, List.pairwise_map]
    refine (pairwise_chainBelow S _ p p).imp_of_mem fun hc _ hlt => ?_
    obtain ⟨hcp, -⟩ := mem_chainBelow.mp hc
    exact Nat.sub_lt_sub_left (Nat.lt_trans hlt hcp) hlt

end Sys2Proof.Proofs
end

section
/-! SUPPORT. What the search and its acceptance give (43_lz77.md R305 to R307). -/

namespace Sys2Proof.Proofs

open Sys2Proof.Machine Sys2Proof.Claims

section
variable {S : List Byte} {base p maxlen probes : Nat}

/-- The search's result, when it is not (0, 0), is one of the candidates, with as many bytes agreeing as it says. -/
theorem find_is_candidate (hmax : 3 ≤ maxlen) (hp : p + maxlen ≤ S.length)
    (hne : find S base p maxlen probes ≠ Match.none) :
    ∃ q, Probed S base p probes q ∧ find S base p maxlen probes = compareAt S p maxlen q := by
  obtain hnone | hmem := List.mem_cons.mp (List.argmax_mem (find_mem_argmax hmax probes))
  · exact absurd hnone hne
  · obtain ⟨q, hq, heq⟩ := (mem_take_searched (Nat.le_of_add_right_le hp)).mp hmem
    exact ⟨q, hq, heq.symm⟩

/-- Of the longest the search gives the nearest. -/
theorem find_dist_le (hmax : 3 ≤ maxlen) (hp : p ≤ S.length) {m : Match}
    (hm : m ∈ Match.none :: (searched S base p maxlen).take probes) (hlen : (find S base p maxlen probes).len ≤ m.len) :
    (find S base p maxlen probes).dist ≤ m.dist :=
  dist_le_of_mem_argmax (pairwise_dist_searched hp probes) (find_mem_argmax hmax probes) hm hlen

theorem find_len_pos (hmax : 3 ≤ maxlen) (hp : p + maxlen ≤ S.length) (hne : find S base p maxlen probes ≠ Match.none) :
    0 < (find S base p maxlen probes).len := by
  obtain ⟨q, ⟨hq, -⟩, heq⟩ := find_is_candidate hmax hp hne
  by_contra hlen
  have hnear := find_dist_le hmax (Nat.le_of_add_right_le hp) List.mem_cons_self (Nat.le_of_not_lt hlen)
  rw [heq] at hnear
  exact Nat.not_le.mpr (Nat.sub_pos_of_lt hq) hnear

/-- No candidate agrees in more bytes, nor in as many at a shorter distance. -/
theorem find_is_longest_and_nearest (hmax : 3 ≤ maxlen) (hp : p + maxlen ≤ S.length) {q n : Nat}
    (hq : Probed S base p probes q) (hn : n ≤ maxlen) (hagree : Agree S q p n) :
    n ≤ (find S base p maxlen probes).len ∧
      (n = (find S base p maxlen probes).len → (find S base p maxlen probes).dist ≤ p - q) := by
  have ⟨hqp, _⟩ := hq
  have hcount : n ≤ (compareAt S p maxlen q).len := (le_agreeing_drop_iff hqp.le hp).mpr ⟨hn, hagree⟩
  have hmem : compareAt S p maxlen q ∈ Match.none :: (searched S base p maxlen).take probes :=
    List.mem_cons_of_mem _ ((mem_take_searched (Nat.le_of_add_right_le hp)).mpr ⟨q, hq, rfl⟩)
  exact ⟨hcount.trans (List.le_of_mem_argmax hmem (find_mem_argmax hmax probes)),
    fun heq => find_dist_le hmax (Nat.le_of_add_right_le hp) hmem (heq ▸ hcount)⟩

/-- The result in the statements' words: its distance leads back to a candidate. -/
theorem find_agrees (hmax : 3 ≤ maxlen) (hp : p + maxlen ≤ S.length) {r : Match} (hr : r = find S base p maxlen probes)
    (hne : r ≠ Match.none) :
    r.len ≤ maxlen ∧ 1 ≤ r.dist ∧ r.dist ≤ p ∧ Probed S base p probes (p - r.dist) ∧ Agree S (p - r.dist) p r.len := by
  obtain ⟨q, hq, heq⟩ := find_is_candidate hmax hp (hr ▸ hne)
  have ⟨hqp, _⟩ := hq
  have hdist : r.dist = p - q := by rw [hr, heq]; rfl
  have hlen : r.len = agreeing maxlen (S.drop q) (S.drop p) := by rw [hr, heq]; rfl
  have hback : p - r.dist = q := by omega
  obtain ⟨hle, hagree⟩ := (le_agreeing_drop_iff hqp.le hp).mp hlen.le
  exact ⟨hle, by omega, by omega, hback ▸ hq, hback ▸ hagree⟩

end

/-- Settles O35: the result is the first of the longest of a falling list of positions, of which more probes take more. -/
theorem moreProbesFindNoShorterMatch : Obligations.MoreProbesFindNoShorterMatch := by
  refine ⟨fun S base p maxlen _ _ h => find_len_mono S base p maxlen h, fun S base p maxlen probes r hr => ?_⟩
  refine ⟨fun hnone => hr.trans (if_pos hnone), fun hmax hp => ⟨fun q n hq hn hagree => ?_, fun hne => ?_⟩⟩
  · obtain ⟨hlong, hnear⟩ := find_is_longest_and_nearest hmax hp hq hn hagree
    rw [hr]
    exact ⟨hlong, fun heq _ => hnear heq⟩
  · exact ⟨hr ▸ find_len_pos hmax hp (hr ▸ hne), find_agrees hmax hp hr hne⟩

/-- Acceptance keeps a result of three bytes or more, or gives none. -/
theorem accept_eq_or_none (m : Match) (reject filter : Bool) :
    accept m reject filter = Match.none ∨ 3 ≤ m.len ∧ accept m reject filter = m := by
  unfold accept
  split
  · exact .inl rfl
  · next hlen =>
    split
    · exact .inl rfl
    · split
      · exact .inl rfl
      · exact .inr ⟨Nat.le_of_not_lt hlen, rfl⟩

/-- Settles O34: what acceptance keeps is the search's result, which is a candidate in the window. -/
theorem acceptedMatchesAreMatches : Obligations.AcceptedMatchesAreMatches := by
  intro S base p maxlen probes reject filter r hp hcap hr hne
  obtain hnone | ⟨hlen, hkept⟩ := accept_eq_or_none (find S base p maxlen probes) reject filter
  · exact absurd (hr.trans hnone) hne
  have hr : r = find S base p maxlen probes := hr.trans hkept
  have hmax : 3 ≤ maxlen := by
    by_contra hmax
    exact hne (hr.trans (find_of_lt_three (Nat.lt_of_not_le hmax)))
  obtain ⟨hle, hdist, hdistp, ⟨-, hbase, hwindow, -⟩, hagree⟩ := find_agrees hmax hp hr hne
  exact ⟨hr ▸ hlen, hle, hcap, hdist, by omega, by omega, fun k hk => (hagree k hk).symm⟩

end Sys2Proof.Proofs
end

section
/-! SUPPORT. LZ_FIND and LZ_HASH (43_lz77.md R301, R302, R308). -/

namespace Sys2Proof.Proofs

open Sys2Proof.Machine Sys2Proof.Claims

/-! LZ_FIND reads its buffer's window. -/

/-- The search sees nothing beyond the capped bytes at its position. -/
theorem find_take {S : List Byte} (base p maxlen probes : Nat) :
    find (S.take (p + maxlen)) base p maxlen probes = find S base p maxlen probes := by
  obtain hmax | hmax := Nat.lt_or_ge maxlen 3
  · rw [find_of_lt_three hmax, find_of_lt_three hmax]
  have hcur : ((S.take (p + maxlen)).drop p).take maxlen = (S.drop p).take maxlen := by
    rw [List.drop_take, Nat.add_sub_cancel_left, List.take_take, Nat.min_self]
  have hback : (S.take (p + maxlen)).take p = S.take p := by
    rw [List.take_take, Nat.min_eq_left (Nat.le_add_right p maxlen)]
  have hsearched : searched (S.take (p + maxlen)) base p maxlen = searched S base p maxlen := by
    rw [searched, hback, chainHash_congr hmax hcur, comparisons_congr hmax hcur hcur, searched]
  rw [find_eq_foldl hmax, find_eq_foldl hmax, hsearched]

/-- The search sees nothing before its window. -/
theorem find_drop_window {S : List Byte} {p : Nat} (maxlen probes : Nat) (hp : p ≤ S.length) :
    find (S.drop (p - 32768)) 0 (p - (p - 32768)) maxlen probes = find S 0 p maxlen probes := by
  obtain hmax | hmax := Nat.lt_or_ge maxlen 3
  · rw [find_of_lt_three hmax, find_of_lt_three hmax]
  have hcur : (S.drop (p - 32768)).drop (p - (p - 32768)) = S.drop p := by
    rw [List.drop_drop, Nat.add_sub_cancel' (Nat.sub_le p 32768)]
  have hreach : p - (p - 32768) - max 0 (p - (p - 32768) - 32768) = p - (p - 32768) := by omega
  have hback : ((S.drop (p - 32768)).take (p - (p - 32768))).reverse.take (p - (p - 32768)) =
      (S.take p).reverse.take (p - (p - 32768)) := by
    rw [List.take_of_length_le (by simp), List.take_reverse, List.length_take_of_le hp, Nat.sub_sub_self (Nat.sub_le p 32768),
      List.drop_take]
  have hsearched : searched (S.drop (p - 32768)) 0 (p - (p - 32768)) maxlen = searched S 0 p maxlen := by
    rw [searched, hcur, hreach, hback, searched, Nat.zero_max]
  rw [find_eq_foldl hmax, find_eq_foldl hmax, hsearched]

/-- The window's bytes, when the cap asks for any, give the search of the whole sequence. -/
theorem find_window {S : List Byte} {p : Nat} (maxlen probes : Nat) (hp : p ≤ S.length) :
    find (if 3 ≤ maxlen then (S.drop (p - 32768)).take (p + maxlen - (p - 32768)) else []) 0 (p - (p - 32768)) maxlen probes =
      find S 0 p maxlen probes := by
  split
  · rw [Nat.sub_add_comm (Nat.sub_le p 32768), find_take, find_drop_window maxlen probes hp]
  · next hmax => rw [find_of_lt_three (Nat.lt_of_not_le hmax), find_of_lt_three (Nat.lt_of_not_le hmax)]

/-- The bytes of a part of a range. -/
theorem bytesAt_add (s : State) (a lo k : Nat) {n : Nat} (h : lo + k ≤ n) :
    bytesAt s (a + lo) k = ((bytesAt s a n).drop lo).take k := by
  refine List.ext_getElem ?_ fun i _ _ => ?_
  · rw [List.length_take, List.length_drop, length_bytesAt, length_bytesAt]
    omega
  · simp [bytesAt, Nat.add_assoc]

/-- Within a readable buffer the window's bytes are read, when the cap asks for any. -/
theorem readWindow_ok {s : State} {a n lo k maxlen : Nat} (h : Readable s a n) (hin : lo + k ≤ n) :
    readWindow (a + lo) k maxlen s = .ok (if 3 ≤ maxlen then ((bytesAt s a n).drop lo).take k else []) s := by
  obtain ⟨-, -, hok⟩ := h
  unfold readWindow
  split
  · rw [← bytesAt_add s a lo k hin]
    refine memRead_ok (State.readRange_of_ok fun i hi => ?_)
    rw [Nat.add_assoc]
    exact hok (lo + i) (by omega)
  · rfl

/-- What LZ_FIND does once its cap and its buffer have passed their checks. -/
def searchBuffer (reject filter : Bool) (probes b n p m : Nat) : Cmd Finish := do
  deny (decide (n ≤ p)) .lenRange p
  let w ← readWindow (b + (p - 32768)) (p + min m (n - p) - (p - 32768)) (min m (n - p))
  let r := accept (find w 0 (p - (p - 32768)) (min m (n - p)) probes) reject filter
  finish .ok r.len r.dist

theorem exec_lzFind (reject filter : Bool) (probes : Nat) (s : State) :
    exec (.lzFind reject filter probes) s = runCmd (do
      deny (decide (258 < s.args.a3.toNat)) .badMaxlen s.args.a3.toNat
      checkRange s.args.a0.toNat s.args.a1.toNat
      searchBuffer reject filter probes s.args.a0.toNat s.args.a1.toNat s.args.a2.toNat s.args.a3.toNat) s := rfl

theorem exec_lzFind_of_readable {s : State} (reject filter : Bool) (probes : Nat) (hm : s.args.a3.toNat ≤ 258)
    (h : Readable s s.args.a0.toNat s.args.a1.toNat) :
    exec (.lzFind reject filter probes) s =
      runCmd (searchBuffer reject filter probes s.args.a0.toNat s.args.a1.toNat s.args.a2.toNat s.args.a3.toNat) s := by
  obtain ⟨h0, hend, -⟩ := h
  rw [exec_lzFind, decide_eq_false (Nat.not_lt.mpr hm), runCmd_congr (bind_ok (deny_false _ _ _)),
    runCmd_congr (bind_ok (checkRange_ok s h0 hend))]

theorem searchBuffer_of_lt {s : State} (reject filter : Bool) (probes : Nat) {b n p : Nat} (m : Nat) (h : Readable s b n)
    (hp : p < n) :
    searchBuffer reject filter probes b n p m s =
      let r := accept (find (bytesAt s b n) 0 p (min m (n - p)) probes) reject filter
      (finish .ok r.len r.dist : Cmd Finish) s := by
  have hin : p - 32768 + (p + min m (n - p) - (p - 32768)) ≤ n := by omega
  have hplen : p ≤ (bytesAt s b n).length := by rw [length_bytesAt]; exact hp.le
  rw [searchBuffer, decide_eq_false (Nat.not_le.mpr hp), bind_ok (deny_false _ _ _), bind_ok (readWindow_ok h hin),
    find_window _ probes hplen]

/-- Settles O33: after its checks LZ_FIND searches the window's bytes, which is to search the buffer's. -/
theorem lzFindSearchesTheBuffer : Obligations.LzFindSearchesTheBuffer := by
  rintro s reject filter probes a n p m rfl rfl rfl rfl
  refine ⟨fun hm => ?_, fun hm hread hp => ?_, fun hm hread hp => ⟨_, rfl, ?_⟩⟩
  · rw [exec_lzFind, decide_eq_true hm, runCmd_of_raise (bind_of_raise (deny_true _ _ _)), ofNat_toNat_word]
    rfl
  · rw [exec_lzFind_of_readable reject filter probes hm hread, searchBuffer, decide_eq_true hp,
      runCmd_of_raise (bind_of_raise (deny_true _ _ _)), ofNat_toNat_word]
    rfl
  · rw [exec_lzFind_of_readable reject filter probes hm hread, runCmd_congr (searchBuffer_of_lt reject filter probes _ hread hp)]
    exact runCmd_of_finish (finish_run .ok _ _ s) rfl

/-! LZ_HASH. -/

theorem decode_eq_lzHash_iff {w : Word} {fast : Bool} :
    decode w = .ok (.lzHash fast) ↔ w &&& 0xFFFFFEFF#32 = 0x00000031#32 ∧ w.getLsbD 8 = fast := by
  rw [decode_eq_ok_iff, filled, Instr.lzHash.injEq]
  rfl

theorem setWidth_byte (v : Word) : (v.setWidth 8).setWidth 32 = v &&& 0xFF#32 := by
  refine BitVec.eq_of_toNat_eq ?_
  rw [BitVec.toNat_and, BitVec.toNat_ofNat, Nat.and_two_pow_sub_one_eq_mod v.toNat 8]
  simp only [BitVec.toNat_setWidth]
  omega

theorem exec_lzHash (fast : Bool) (s : State) :
    exec (.lzHash fast) s = .next (completed s 0x00#8 ((if fast then hash12 else hash15) (s.args.a0.setWidth 8)
      ((s.args.a0 >>> 8).setWidth 8) ((s.args.a0 >>> 16).setWidth 8)) 0#32) :=
  (runCmd_of_finish (finish_run .ok _ 0 s) rfl).trans (by rw [ofNat_toNat_word]; rfl)

/-- Settles O36: the command's bytes are ARG0's, masked, and the shorter hash is the longer one's low bits. -/
theorem lzHashOfThreeBytes : Obligations.LzHashOfThreeBytes := by
  refine fun s fast => ⟨fun w => decode_eq_lzHash_iff, ?_⟩
  have hmask : 0x7FFF#32 &&& 0x0FFF#32 = 0x0FFF#32 := by decide
  rw [exec_lzHash]
  cases fast
  · simp only [hash15, setWidth_byte, Bool.false_eq_true, if_false]
  · simp only [hash12, hash15, setWidth_byte, if_true, BitVec.and_assoc, hmask]

end Sys2Proof.Proofs
end

section
/-! SUPPORT. What the records of a parse stand for (45_encoder.md R403), and that the search of the parse gives matches (43_lz77.md
R300, R310). -/

namespace Sys2Proof.Proofs

open Sys2Proof.Machine Sys2Proof.Claims

/-! The bytes that records stand for. -/

theorem replay_append (ts us : List Token) (sofar : List Byte) : replay (ts ++ us) sofar = replay us (replay ts sofar) := by
  induction ts generalizing sofar with
  | nil => rfl
  | cons t ts ih => cases t <;> exact ih _

/-- A record stands for the bytes of `S` at `p` that it covers. -/
def StandsFor (S : List Byte) (p : Nat) (t : Token) : Prop := replay [t] (S.take p) = S.take (p + t.covers)

theorem standsFor_lit {S : List Byte} {p : Nat} (hp : p < S.length) : StandsFor S p (.lit (S.getD p 0#8)) := by
  rw [StandsFor, Token.covers, List.take_succ_eq_append_getElem hp, List.getD_eq_getElem _ _ hp]
  rfl

/-- A match repeats, byte by byte, what stands its distance back, its own first bytes among it. -/
theorem standsFor_copy {S : List Byte} {p len dist : Nat} (h : IsMatchAt S p len dist) : StandsFor S p (.copy len dist) := by
  obtain ⟨-, -, hdist, -, hback, hend, hagree⟩ := h
  have hcopied : ∀ n ≤ len, (List.range n).foldl (fun out _ => out ++ [out.getD (out.length - dist) 0#8]) (S.take p)
      = S.take (p + n) := by
    intro n hn
    induction n with
    | zero => rfl
    | succ n ih =>
      have hnext : p + n < S.length := by omega
      have hbyte : (S.take (p + n)).getD ((S.take (p + n)).length - dist) 0#8 = S[p + n] := by
        rw [List.length_take_of_le hnext.le, List.getD_eq_getElem?_getD, List.getElem?_take_of_lt (by omega),
          show p + n - dist = p - dist + n by omega, ← hagree n hn, List.getElem?_eq_getElem hnext, Option.getD_some]
      rw [List.range_succ, List.foldl_append, ih (Nat.le_of_succ_le hn), List.foldl_cons, List.foldl_nil, hbyte,
        ← Nat.add_assoc, List.take_succ_eq_append_getElem hnext]
  exact hcopied len le_rfl

/-! The search of the parse. -/

theorem mem_of_cellAt {α : Type} {m : List (Nat × α)} {a : Nat} {v : α} (h : cellAt m a = some v) : (a, v) ∈ m := by
  induction m with
  | nil => cases h
  | cons c m ih =>
    unfold cellAt at h
    split at h
    · next hkey =>
      cases h
      exact hkey ▸ List.mem_cons_self
    · exact List.mem_cons_of_mem _ (ih h)

/-- The comparison of the fast path with an earlier position gives no match or a match. -/
theorem isMatchAt_fastCompare {S : List Byte} {base p maxlen : Nat} {slot : Option Nat} (hslot : ∀ q, slot = some q → q < p)
    (hcap : maxlen ≤ 258) (hend : p + maxlen ≤ S.length) (hne : fastCompare S base p maxlen slot ≠ Match.none) :
    IsMatchAt S p (fastCompare S base p maxlen slot).len (fastCompare S base p maxlen slot).dist := by
  revert hne
  cases slot with
  | none => exact fun hne => absurd rfl hne
  | some q =>
    have hq := hslot q rfl
    unfold fastCompare
    dsimp only
    split
    · exact fun hne => absurd rfl hne
    · next hwindow =>
      simp only [Config.window, not_or, Nat.not_lt] at hwindow
      intro hne
      obtain hnone | ⟨hlen, hkept⟩ := accept_eq_or_none
        { len := agreeing maxlen (S.drop q) (S.drop p), dist := p - q } true false
      · exact absurd hnone hne
      · obtain ⟨hle, hagree⟩ := (le_agreeing_drop_iff hq.le hend).mp le_rfl
        rw [hkept]
        refine ⟨hlen, hle.trans hcap, Nat.sub_pos_of_lt hq, hwindow.2, Nat.sub_le p q, by dsimp only; omega, fun k hk => ?_⟩
        rw [show p - (p - q) = q by omega]
        exact (hagree k hk).symm

section
variable {e : Enc} {maxlen : Nat} (htable : ∀ c ∈ e.fasttab, c.2 < e.pos)
include htable

theorem isMatchAt_search (hcap : maxlen ≤ 258) (hend : e.pos + maxlen ≤ e.input.length)
    (hne : (e.search maxlen).1 ≠ Match.none) :
    IsMatchAt e.input e.pos (e.search maxlen).1.len (e.search maxlen).1.dist := by
  revert hne
  unfold Enc.search
  split
  · unfold fastSearch
    split
    · exact fun hne => absurd rfl hne
    · exact isMatchAt_fastCompare (fun q hq => htable _ (mem_of_cellAt hq)) hcap hend
  · intro hne
    obtain ⟨hlen, hle, -, hdist, hwindow, hback, hagree⟩ := acceptedMatchesAreMatches _ _ _ _ _ _ _ _ hend hcap rfl hne
    exact ⟨hlen, hle.trans hcap, hdist, hwindow, by dsimp only; omega, by dsimp only; omega, hagree⟩

/-- After a search the table holds no position past the one searched at. -/
theorem le_pos_of_mem_search {c : Nat × Nat} (hc : c ∈ (e.search maxlen).2) : c.2 ≤ e.pos := by
  revert hc
  unfold Enc.search
  split
  · unfold fastSearch
    split
    · exact fun hc => (htable c hc).le
    · intro hc
      obtain rfl | hc := mem_putCell hc
      · exact le_rfl
      · exact (htable c hc).le
  · exact fun hc => (htable c hc).le

end

end Sys2Proof.Proofs
end

section
/-! SUPPORT. A parse decision (45_encoder.md R400, R403, R404). -/

namespace Sys2Proof.Proofs

open Sys2Proof.Machine Sys2Proof.Claims

/-- What a parse decision does from `e` to `e'`. -/
def Parses (e e' : Enc) : Prop :=
  ParseCovers e' ∧ e'.input = e.input ∧ e.pos < e'.pos ∧ (e.blockRaw < 16384 → e'.blockRaw < 16384)

/-- The encoder after a search and a decision, before the record it emits. -/
def decided (e : Enc) (tab : List (Nat × Nat)) (saved : Option Match) (pos : Nat) : Enc :=
  { e with fasttab := tab, saved := saved, pos := pos }

/-- The encoder with one more record in its block (R403). -/
def withRecord (e : Enc) (t : Token) : Enc := { e with tokens := e.tokens ++ [t], blockRaw := e.blockRaw + t.covers }

theorem emit_eq (e : Enc) (t : Token) :
    e.emit t = if 16384 ≤ (withRecord e t).blockRaw then (withRecord e t).closeBlock false else withRecord e t := rfl

/-- Closing a block moves its start to where its records end. -/
theorem parseCovers_closeBlock {e : Enc} (h : ParseCovers e) (final : Bool) : ParseCovers (e.closeBlock final) where
  position := h.position
  inside := h.inside
  held := h.held
  bytes := rfl
  table := h.table
  level0 := h.level0

section
variable {e : Enc} (h : ParseCovers e) {tab : List (Nat × Nat)} (htab : ∀ c ∈ tab, c.2 ≤ e.pos)
include h htab

/-- A decision that holds a match back emits no record: it only moves on by the byte the match starts at. -/
theorem parses_of_hold (hlevel : e.raw = false) (hsaved : e.saved = none) {m : Match}
    (hm : IsMatchAt e.input e.pos m.len m.dist) : Parses e (decided e tab (some m) (e.pos + 1)) := by
  have hposition : e.blockStart + e.blockRaw = e.pos := by simpa [hsaved] using h.position
  have ⟨hlen, _, _, _, _, hend, _⟩ := hm
  refine ⟨⟨congrArg (· + 1) hposition, ?_, ?_, h.bytes, fun c hc => Nat.lt_succ_of_le (htab c hc), ?_⟩, rfl,
    Nat.lt_succ_self _, id⟩
  · dsimp only [decided]; omega
  · rintro _ ⟨⟩
    exact hm
  · exact fun hraw => absurd (hlevel.symm.trans hraw) Bool.false_ne_true

/-- A decision that emits a record that stands for the bytes from the end of the block's records on. -/
theorem parses_of_emit {saved : Option Match} {pos : Nat} {t : Token}
    (hrecord : StandsFor e.input (e.blockStart + e.blockRaw) t)
    (hposition : e.blockStart + e.blockRaw + t.covers + saved.toList.length = pos) (hadvance : e.pos < pos)
    (hinside : pos ≤ e.input.length) (hheld : ∀ m, saved = some m → IsMatchAt e.input (pos - 1) m.len m.dist)
    (hlevel : e.raw = true → saved = none) : Parses e ((decided e tab saved pos).emit t) := by
  have hcovers : ParseCovers (withRecord (decided e tab saved pos) t) := by
    refine ⟨by rw [← hposition]; exact congrArg (· + _) (Nat.add_assoc _ _ _).symm, hinside, hheld, ?_,
      fun c hc => (htab c hc).trans_lt hadvance, hlevel⟩
    calc replay (e.tokens ++ [t]) (e.input.take e.blockStart)
        = replay [t] (e.input.take (e.blockStart + e.blockRaw)) := by rw [replay_append, h.bytes]
      _ = e.input.take (e.blockStart + e.blockRaw + t.covers) := hrecord
      _ = e.input.take (e.blockStart + (e.blockRaw + t.covers)) := by rw [Nat.add_assoc]
  rw [emit_eq]
  split
  · exact ⟨parseCovers_closeBlock hcovers false, rfl, hadvance, fun _ => Nat.zero_lt_succ _⟩
  · next hopen => exact ⟨hcovers, rfl, hadvance, fun _ => Nat.lt_of_not_le hopen⟩

/-- A decision that emits a record and holds no match. -/
theorem parses_of_emit_unsaved {saved : Option Match} (hsaved : saved = none) {pos : Nat} {t : Token}
    (hrecord : StandsFor e.input (e.blockStart + e.blockRaw) t) (hposition : e.blockStart + e.blockRaw + t.covers = pos)
    (hadvance : e.pos < pos) (hinside : pos ≤ e.input.length) : Parses e ((decided e tab saved pos).emit t) := by
  subst hsaved
  exact parses_of_emit h htab hrecord hposition hadvance hinside (fun _ hm => nomatch hm) fun _ => rfl

/-- With no match held, the byte at the position as a literal. -/
theorem parses_of_emit_lit (hsaved : e.saved = none) (hp : e.pos < e.input.length) :
    Parses e ((decided e tab e.saved (e.pos + 1)).emit (.lit (e.input.getD e.pos 0#8))) := by
  have hposition : e.blockStart + e.blockRaw = e.pos := by simpa [hsaved] using h.position
  exact parses_of_emit_unsaved h htab hsaved (by rw [hposition]; exact standsFor_lit hp) (congrArg (· + 1) hposition)
    (Nat.lt_succ_self _) hp

/-- With no match held: a literal, a match, or a match held back (R400). -/
theorem parses_of_parseFresh (hlevel : e.raw = false) (hsaved : e.saved = none) (hp : e.pos < e.input.length) {m : Match}
    (hm : m ≠ Match.none → IsMatchAt e.input e.pos m.len m.dist) :
    Parses e (({ e with fasttab := tab } : Enc).parseFresh m) := by
  have hposition : e.blockStart + e.blockRaw = e.pos := by simpa [hsaved] using h.position
  unfold Enc.parseFresh
  split
  · exact parses_of_emit_lit h htab hsaved hp
  · next hne =>
    have ⟨hlen, _, _, _, _, hend, _⟩ := hm hne
    split
    · exact parses_of_emit_unsaved h htab hsaved (hposition ▸ standsFor_copy (hm hne)) (congrArg (· + m.len) hposition)
        (by dsimp only; omega) hend
    · exact parses_of_hold h htab hlevel hsaved (hm hne)

/-- With a match held at the position before: a longer one takes its place, or it is taken (R400). -/
theorem parses_of_parseHeld (hlevel : e.raw = false) {held : Match} (hsaved : e.saved = some held)
    (hp : e.pos < e.input.length) {m : Match} (hm : m ≠ Match.none → IsMatchAt e.input e.pos m.len m.dist) :
    Parses e (({ e with fasttab := tab } : Enc).parseHeld m held) := by
  have hposition : e.blockStart + e.blockRaw + 1 = e.pos := by simpa [hsaved] using h.position
  have hbefore : e.pos - 1 = e.blockStart + e.blockRaw := by omega
  have hheld : IsMatchAt e.input (e.blockStart + e.blockRaw) held.len held.dist := hbefore ▸ h.held held hsaved
  have ⟨hlen, _, _, _, _, hend, _⟩ := hheld
  unfold Enc.parseHeld
  dsimp only
  rw [hbefore]
  split
  · next hlonger =>
    have hne : m ≠ Match.none := by rintro rfl; exact absurd hlonger (Nat.not_lt_zero _)
    refine parses_of_emit h htab (standsFor_lit (by omega)) (congrArg (· + 1) hposition) (Nat.lt_succ_self _) hp ?_
      fun hraw => absurd (hlevel.symm.trans hraw) Bool.false_ne_true
    rintro _ ⟨⟩
    exact hm hne
  · exact parses_of_emit_unsaved h htab rfl (standsFor_copy hheld) rfl (by omega) hend

end

/-- Settles O42: each decision emits at most one record, which stands for the bytes the records do not reach yet. -/
theorem parseCoversTheInput : Obligations.ParseCoversTheInput := by
  intro e h hp
  have hend : e.pos + min 258 (e.input.length - e.pos) ≤ e.input.length := by omega
  have hmatch := isMatchAt_search h.table (Nat.min_le_left _ _) hend
  have htab := fun c => le_pos_of_mem_search h.table (maxlen := min 258 (e.input.length - e.pos)) (c := c)
  change Parses e e.step
  unfold Enc.step
  split
  · next hraw =>
    exact parses_of_emit_lit h (fun c hc => (h.table c hc).le) (h.level0 hraw) hp
  · next hraw =>
    have hlevel := Bool.eq_false_of_not_eq_true hraw
    dsimp only
    split
    · next held hsaved => exact parses_of_parseHeld h htab hlevel hsaved hp hmatch
    · next hsaved => exact parses_of_parseFresh h htab hlevel hsaved hp hmatch

end Sys2Proof.Proofs
end

section
/-! SUPPORT. The bits that a block's fields take (45_encoder.md R407 to R413). -/

namespace Sys2Proof.Proofs

open Sys2Proof.Machine Sys2Proof.Claims

/-! Widths of lists of fields. -/

@[simp] theorem fieldsWidth_nil : fieldsWidth [] = 0 := rfl

@[simp] theorem fieldsWidth_cons (f : Nat × Nat) (fs : List (Nat × Nat)) : fieldsWidth (f :: fs) = f.2 + fieldsWidth fs := rfl

@[simp] theorem fieldsWidth_append (fs gs : List (Nat × Nat)) : fieldsWidth (fs ++ gs) = fieldsWidth fs + fieldsWidth gs := by
  simp only [fieldsWidth, List.map_append, List.sum_append]

/-- Fields put out item by item take, together, what the items take. -/
theorem fieldsWidth_flatMap {α : Type} {fields : α → List (Nat × Nat)} {cost : α → Nat} {xs : List α}
    (h : ∀ x ∈ xs, fieldsWidth (fields x) = cost x) : fieldsWidth (xs.flatMap fields) = (xs.map cost).sum := by
  induction xs with
  | nil => rfl
  | cons x xs ih =>
    rw [List.flatMap_cons, fieldsWidth_append, h x List.mem_cons_self, ih fun y hy => h y (List.mem_cons_of_mem _ hy),
      List.map_cons, List.sum_cons]

@[simp] theorem field_width (len : List Nat) (sym : Nat) : ((CodeTable.of len).field sym).2 = len.getD sym 0 := rfl

/-! The parts of a block. -/

@[simp] theorem fieldsWidth_headerFields (final : Bool) (kind : BlockKind) : fieldsWidth (headerFields final kind) = 3 := rfl

theorem fieldsWidth_tokenFields (ll dl : List Nat) (t : Token) :
    fieldsWidth (tokenFields (CodeTable.of ll) (CodeTable.of dl) t) = tokenCost ll dl t := by
  cases t with
  | lit b => simp [tokenFields, tokenCost]
  | copy len dist => simp [tokenFields, tokenCost, Nat.add_assoc]

theorem fieldsWidth_bodyFields (ll dl : List Nat) (toks : List Token) :
    fieldsWidth (bodyFields (CodeTable.of ll) (CodeTable.of dl) toks) = bodyCost ll dl toks := by
  rw [bodyFields, fieldsWidth_append, fieldsWidth_flatMap fun t _ => fieldsWidth_tokenFields ll dl t]
  rfl

/-- An item below 16 has no repeat value (44_deflate_format.md R338). -/
theorem repeatWidth_of_lt {c : Nat} (h : c < 16) : repeatWidth c = 0 := by
  unfold repeatWidth
  rw [if_neg (by omega), if_neg (by omega), if_neg (by omega)]

theorem fieldsWidth_packedFields (cl : List Nat) (item : Nat × Nat) :
    fieldsWidth (packedFields (CodeTable.of cl) item) = cl.getD item.1 0 + repeatWidth item.1 := by
  unfold packedFields
  split
  · simp
  · next hlt => simp [repeatWidth_of_lt (Nat.lt_of_not_le hlt)]

theorem trimmed_le (sizes : List Nat) (least k : Nat) : trimmed sizes least k ≤ k := by
  induction k with
  | zero => exact le_rfl
  | succ k ih =>
    unfold trimmed
    split
    · exact Nat.le_succ_of_le ih
    · exact le_rfl

/-- The lengths of the code-length code that a block lists are some of the 19 there are. -/
theorem nclen_le (toks : List Token) : (dynTables toks).nclen ≤ clOrder.length := max_le (trimmed_le _ _ _) (by decide)

theorem fieldsWidth_dynTables_fields (toks : List Token) : fieldsWidth (dynTables toks).fields =
    14 + 3 * (dynTables toks).nclen +
      ((dynTables toks).packed.map fun item => (dynTables toks).cl.getD item.1 0 + repeatWidth item.1).sum := by
  have hlist : fieldsWidth ((clOrder.take (dynTables toks).nclen).map fun c => ((dynTables toks).cl.getD c 0, 3)) =
      3 * (dynTables toks).nclen := by
    rw [fieldsWidth, List.map_map, Function.comp_def, List.map_const', List.length_take_of_le (nclen_le toks),
      List.sum_replicate_nat, Nat.mul_comm]
  rw [DynTables.fields, fieldsWidth_append, fieldsWidth_append, hlist,
    fieldsWidth_flatMap fun item _ => fieldsWidth_packedFields _ item]
  rfl

/-- Settles O43: each part of a block takes what the costs count for it. -/
theorem blockCostsCountTheBits : Obligations.BlockCostsCountTheBits := by
  intro final toks
  constructor
  · rw [dynamicFields, fieldsWidth_append, fieldsWidth_append, fieldsWidth_headerFields, fieldsWidth_dynTables_fields,
      fieldsWidth_bodyFields, dynamicCost]
    omega
  · rw [staticFields, fieldsWidth_append, fieldsWidth_headerFields, fieldsWidth_bodyFields, staticCost]

end Sys2Proof.Proofs
end

section
/-! SUPPORT. rle_pack (45_encoder.md R414): what its packed sequence stands for (44_deflate_format.md R338). -/

namespace Sys2Proof.Proofs

open Sys2Proof.Machine Sys2Proof.Claims

/-! What items stand for. -/

theorem unpack_append (xs ys : List (Nat × Nat)) (sofar : List Nat) : unpack (xs ++ ys) sofar = unpack ys (unpack xs sofar) := by
  induction xs generalizing sofar with
  | nil => rfl
  | cons x xs ih => exact ih _

/-- A length as an item is itself. -/
theorem unpack_singleton {l : Nat} (hl : l ≤ 15) (v : Nat) (sofar : List Nat) : unpack [(l, v)] sofar = sofar ++ [l] := by
  rw [unpack, unpack, if_neg (by omega), if_neg (by omega), if_neg (by omega)]

theorem unpack_replicate {l : Nat} (hl : l ≤ 15) (n : Nat) (sofar : List Nat) :
    unpack (List.replicate n (l, 0)) sofar = sofar ++ List.replicate n l := by
  induction n generalizing sofar with
  | zero => rw [List.replicate_zero, List.replicate_zero, List.append_nil, unpack]
  | succ n ih =>
    rw [List.replicate_succ, List.replicate_succ, ← List.singleton_append, unpack_append, unpack_singleton hl, ih,
      List.append_assoc, List.singleton_append]

/-- An item's symbol is one of the 19, and its repeat value fits its extra bits. -/
def GoodItem (item : Nat × Nat) : Prop := item.1 ≤ 18 ∧ item.2 < 2 ^ repeatWidth item.1

theorem goodItem_of_le {l : Nat} (hl : l ≤ 15) : GoodItem (l, 0) := ⟨hl.trans (by decide), Nat.two_pow_pos _⟩

/-! The items of a run. -/

/-- The items of a run of `n` zeros. -/
def zeroItems (n : Nat) : List (Nat × Nat) :=
  if n = 0 then [] else if n < 3 then List.replicate n (0, 0) else if n ≤ 10 then [(17, n - 3)] else [(18, n - 11)]

/-- The items of `n` repeats of the length `l`. -/
def repeatItems (l n : Nat) : List (Nat × Nat) :=
  if n = 0 then [] else if n < 3 then List.replicate n (l, 0) else [(16, n - 3)]

theorem flushZeros_eq (k : Packer) : k.flushZeros = { k with out := k.out ++ zeroItems k.rz, rz := 0 } := by
  obtain ⟨out, prev, rz, rr⟩ := k
  unfold Packer.flushZeros zeroItems
  dsimp only
  split
  · next h => rw [h, List.append_nil]
  · split
    · rfl
    · split <;> rfl

theorem flushRepeats_eq (k : Packer) : k.flushRepeats = { k with out := k.out ++ repeatItems k.prev k.rr, rr := 0 } := by
  obtain ⟨out, prev, rz, rr⟩ := k
  unfold Packer.flushRepeats repeatItems
  dsimp only
  split
  · next h => rw [h, List.append_nil]
  · split <;> rfl

@[simp] theorem flushZeros_rz (k : Packer) : k.flushZeros.rz = 0 := by rw [flushZeros_eq]

@[simp] theorem flushZeros_rr (k : Packer) : k.flushZeros.rr = k.rr := by rw [flushZeros_eq]

theorem flushZeros_withPrev (k : Packer) (p : Nat) :
    ({ k with prev := p } : Packer).flushZeros = { k.flushZeros with prev := p } := by
  rw [flushZeros_eq, flushZeros_eq]

@[simp] theorem flushRepeats_rz (k : Packer) : k.flushRepeats.rz = k.rz := by rw [flushRepeats_eq]

@[simp] theorem flushRepeats_rr (k : Packer) : k.flushRepeats.rr = 0 := by rw [flushRepeats_eq]

theorem unpack_zeroItems (n : Nat) (sofar : List Nat) : unpack (zeroItems n) sofar = sofar ++ List.replicate n 0 := by
  unfold zeroItems
  split
  · next h => rw [h, List.replicate_zero, List.append_nil, unpack]
  · split
    · exact unpack_replicate (Nat.zero_le _) n sofar
    · split
      · simp [unpack, show n - 3 + 3 = n by omega]
      · simp [unpack, show n - 11 + 11 = n by omega]

/-- Repeats of the length before them. -/
theorem unpack_repeatItems {l : Nat} (hl : l ≤ 15) (n : Nat) {sofar : List Nat} (hlast : sofar.getLastD 0 = l) :
    unpack (repeatItems l n) sofar = sofar ++ List.replicate n l := by
  unfold repeatItems
  split
  · next h => rw [h, List.replicate_zero, List.append_nil, unpack]
  · split
    · exact unpack_replicate hl n sofar
    · rw [unpack, unpack, if_pos rfl, hlast, show n - 3 + 3 = n by omega]

theorem goodItem_of_mem_zeroItems {n : Nat} (hn : n ≤ 138) {item : Nat × Nat} (h : item ∈ zeroItems n) : GoodItem item := by
  revert h
  unfold zeroItems
  split
  · exact fun h => nomatch h
  · split
    · intro h
      rw [List.eq_of_mem_replicate h]
      exact goodItem_of_le (Nat.zero_le _)
    · split
      · intro h
        rw [List.eq_of_mem_singleton h]
        exact ⟨(by decide : 17 ≤ 18), show n - 3 < 8 by omega⟩
      · intro h
        rw [List.eq_of_mem_singleton h]
        exact ⟨(by decide : 18 ≤ 18), show n - 11 < 128 by omega⟩

theorem goodItem_of_mem_repeatItems {l n : Nat} (hl : l ≤ 15) (hn : n ≤ 6) {item : Nat × Nat} (h : item ∈ repeatItems l n) :
    GoodItem item := by
  revert h
  unfold repeatItems
  split
  · exact fun h => nomatch h
  · split
    · intro h
      rw [List.eq_of_mem_replicate h]
      exact goodItem_of_le hl
    · intro h
      rw [List.eq_of_mem_singleton h]
      exact ⟨(by decide : 16 ≤ 18), show n - 3 < 4 by omega⟩

/-! The packer. -/

/-- The packer has taken the lengths `xs`: its items and its pending run stand for them. Only repeats of the length that the items
end with are pending as repeats. -/
structure Packs (k : Packer) (xs : List Nat) : Prop where
  covers : unpack k.out [] ++ List.replicate k.rz 0 ++ List.replicate k.rr k.prev = xs
  zeros : k.rz ≤ 138
  repeats : k.rr ≤ 6
  last : k.prev ≠ 0 → k.prev ≤ 15 → k.rz = 0 ∧ (unpack k.out []).getLastD 0 = k.prev
  repeated : 0 < k.rr → k.prev ≠ 0 ∧ k.prev ≤ 15
  good : ∀ item ∈ k.out, GoodItem item

/-- Between two lengths no run is at its limit. -/
def Packed (k : Packer) (xs : List Nat) : Prop := Packs k xs ∧ k.rz < 138 ∧ k.rr < 6

section
variable {k : Packer} {xs : List Nat}

theorem Packs.flushZeros (h : Packs k xs) : Packs k.flushZeros xs := by
  obtain ⟨hcovers, hzeros, hrepeats, hlast, hrepeated, hgood⟩ := h
  rw [flushZeros_eq]
  refine ⟨?_, Nat.zero_le _, hrepeats, fun h0 h15 => ⟨rfl, ?_⟩, hrepeated, fun item hitem => ?_⟩
  · rw [← hcovers, unpack_append, unpack_zeroItems, List.replicate_zero, List.append_nil]
  · obtain ⟨hrz, hlast⟩ := hlast h0 h15
    rw [hrz, unpack_append, unpack_zeroItems, List.replicate_zero, List.append_nil, hlast]
  · exact (List.mem_append.mp hitem).elim (hgood item) (goodItem_of_mem_zeroItems hzeros)

theorem Packs.flushRepeats (h : Packs k xs) : Packs k.flushRepeats xs := by
  rw [flushRepeats_eq]
  obtain hrr | hrr := Nat.eq_zero_or_pos k.rr
  · have hsame : ({ k with out := k.out ++ repeatItems k.prev k.rr, rr := 0 } : Packer) = k := by
      rw [hrr, repeatItems, if_pos rfl, List.append_nil, ← hrr]
    rwa [hsame]
  obtain ⟨hcovers, hzeros, hrepeats, hlast, hrepeated, hgood⟩ := h
  obtain ⟨h0, h15⟩ := hrepeated hrr
  obtain ⟨hrz, hlast⟩ := hlast h0 h15
  refine ⟨?_, hzeros, Nat.zero_le _, fun _ _ => ⟨hrz, ?_⟩, fun h => absurd h (Nat.lt_irrefl 0), fun item hitem => ?_⟩
  · simpa [unpack_append, unpack_repeatItems h15 k.rr hlast, hrz] using hcovers
  · obtain ⟨n, hn⟩ := Nat.exists_eq_succ_of_ne_zero hrr.ne'
    rw [unpack_append, unpack_repeatItems h15 k.rr hlast, hn, List.replicate_succ', ← List.append_assoc,
      List.getLastD_concat]
  · exact (List.mem_append.mp hitem).elim (hgood item) (goodItem_of_mem_repeatItems h15 hrepeats)

/-- One more zero. -/
theorem Packs.addZero (h : Packs k xs) (hrr : k.rr = 0) (hrz : k.rz < 138) :
    Packs { k with rz := k.rz + 1, prev := 0 } (xs ++ [0]) := by
  obtain ⟨hcovers, -, hrepeats, -, -, hgood⟩ := h
  refine ⟨?_, hrz, hrepeats, fun h => absurd rfl h, fun h => absurd hrr h.ne', hgood⟩
  rw [← hcovers, hrr, List.replicate_succ', List.replicate_zero, List.replicate_zero, List.append_nil, List.append_nil,
    List.append_assoc]

/-- One more repeat. -/
theorem Packs.addRepeat (h : Packs k xs) (h0 : k.prev ≠ 0) (h15 : k.prev ≤ 15) (hrr : k.rr < 6) :
    Packs { k with rr := k.rr + 1 } (xs ++ [k.prev]) := by
  obtain ⟨hcovers, hzeros, -, hlast, -, hgood⟩ := h
  refine ⟨?_, hzeros, hrr, hlast, fun _ => ⟨h0, h15⟩, hgood⟩
  rw [← hcovers, List.replicate_succ', List.append_assoc, List.append_assoc, List.append_assoc]

/-- A length that begins no run. -/
theorem Packs.addLength (h : Packs k xs) (hrz : k.rz = 0) (hrr : k.rr = 0) {l : Nat} (hl : l ≤ 15) :
    Packs { k with out := k.out ++ [(l, 0)], prev := l } (xs ++ [l]) := by
  obtain ⟨hcovers, hzeros, hrepeats, -, -, hgood⟩ := h
  have hout : unpack (k.out ++ [(l, 0)]) [] = unpack k.out [] ++ [l] := by rw [unpack_append, unpack_singleton hl]
  refine ⟨?_, hzeros, hrepeats, fun _ _ => ⟨hrz, ?_⟩, fun h => absurd hrr h.ne', fun item hitem => ?_⟩
  · rw [← hcovers, hrz, hrr, hout]
    simp
  · rw [hout, List.getLastD_concat]
  · exact (List.mem_append.mp hitem).elim (hgood item) fun hitem => List.eq_of_mem_singleton hitem ▸ goodItem_of_le hl

/-- A run of zeros is put out at its limit. -/
theorem Packed.zero (h : Packed k xs) : Packed { k.zero with prev := 0 } (xs ++ [0]) := by
  obtain ⟨h, hrz, -⟩ := h
  have hrun := h.flushRepeats.addZero (flushRepeats_rr k) (by rwa [flushRepeats_rz])
  unfold Packer.zero
  dsimp only
  split
  · rw [← flushZeros_withPrev]
    refine ⟨hrun.flushZeros, ?_, ?_⟩
    · simp
    · simp
  · next hlimit => exact ⟨hrun, lt_of_le_of_ne hrun.zeros hlimit, by simp⟩

/-- Zeros pending are put out before another length, and repeats at their limit or before a length that they do not repeat. -/
theorem Packed.nonzero (h : Packed k xs) {l : Nat} (h0 : l ≠ 0) (h15 : l ≤ 15) :
    Packed { k.nonzero l with prev := l } (xs ++ [l]) := by
  obtain ⟨h, -, hrr⟩ := h
  unfold Packer.nonzero
  dsimp only
  split
  · refine ⟨h.flushZeros.flushRepeats.addLength ?_ (flushRepeats_rr _) h15, ?_, ?_⟩
    · simp
    · simp
    · simp
  · next hsame =>
    obtain rfl : l = k.flushZeros.prev := not_not.mp hsame
    have hrun := h.flushZeros.addRepeat h0 h15 (by rwa [flushZeros_rr])
    split
    · have hprev (j : Packer) : { j.flushRepeats with prev := j.prev } = j.flushRepeats := by rw [flushRepeats_eq]
      rw [hprev { k.flushZeros with rr := k.flushZeros.rr + 1 }]
      refine ⟨hrun.flushRepeats, ?_, ?_⟩
      · simp
      · simp
    · next hlimit => exact ⟨hrun, by simp, lt_of_le_of_ne hrun.repeats hlimit⟩

theorem Packed.add (h : Packed k xs) {l : Nat} (h15 : l ≤ 15) : Packed (k.add l) (xs ++ [l]) := by
  unfold Packer.add
  split
  · next hzero => exact hzero ▸ h.zero
  · next hne => exact h.nonzero hne h15

theorem Packed.foldl (h : Packed k xs) {ls : List Nat} (hls : ∀ l ∈ ls, l ≤ 15) : Packed (ls.foldl Packer.add k) (xs ++ ls) := by
  induction ls generalizing k xs with
  | nil => rwa [List.append_nil]
  | cons l ls ih =>
    rw [← List.singleton_append, ← List.append_assoc]
    exact ih (h.add (hls l List.mem_cons_self)) fun x hx => hls x (List.mem_cons_of_mem _ hx)

/-- With no run pending the items stand for the lengths. -/
theorem Packs.unpack_out (h : Packs k xs) (hrz : k.rz = 0) (hrr : k.rr = 0) : unpack k.out [] = xs := by
  simpa [hrz, hrr] using h.covers

end

/-- The packer starts with no length taken; 255 is no length. -/
theorem packed_start : Packed { out := [], prev := 0xFF, rz := 0, rr := 0 } [] :=
  ⟨⟨rfl, by decide, by decide, fun _ h => absurd h (by decide), fun h => absurd h (by decide), fun _ h => nomatch h⟩,
    by decide, by decide⟩

/-- Settles O44: at every length the items and the pending run stand for the lengths taken, and at the end no run is pending. -/
theorem rlePackLosesNothing : Obligations.RlePackLosesNothing := by
  intro sizes hsizes
  obtain ⟨h, -, -⟩ := packed_start.foldl hsizes
  rw [List.nil_append] at h
  unfold rlePack
  dsimp only
  split
  · next hrr =>
    obtain ⟨h0, h15⟩ := h.repeated hrr
    obtain ⟨hrz, -⟩ := h.last h0 h15
    exact ⟨h.flushRepeats.unpack_out (by rwa [flushRepeats_rz]) (flushRepeats_rr _), h.flushRepeats.good⟩
  · next hrr =>
    exact ⟨h.flushZeros.unpack_out (flushZeros_rz _) (by rw [flushZeros_rr]; exact Nat.eq_zero_of_not_pos hrr),
      h.flushZeros.good⟩

end Sys2Proof.Proofs
end

section
/-! SUPPORT. ENC_INIT (45_encoder.md R372, R380), and the checks of ENC_RUN (R390, R395, R396). -/

namespace Sys2Proof.Proofs

open Sys2Proof.Machine Sys2Proof.Claims

/-! ENC_INIT. -/

/-- The level table in the statements' words (R372). -/
theorem levelOf_eq {lv : Nat} (h : lv ≤ 10) :
    levelOf lv = { raw := decide (lv = 0), fast := decide (lv = 1), greedy := decide (lv ≤ 3), probes := probesOf lv } := by
  interval_cases lv <;> rfl

/-- The zlib header's 16 bits leave the formatter as two bytes (R380). -/
theorem puts_zlibHeader : BitSink.reset.puts [(0x78, 8), (0x01, 8)] = { BitSink.reset with fifo := [0x78#8, 0x01#8] } := by
  decide

theorem opened_eq {lv : Nat} (h : lv ≤ 10) (flags : EncFlags) (arg0 : Word) : Enc.opened lv flags arg0 =
    { Enc.reset with
      phase := .ready, level := BitVec.ofNat 4 lv, flags := flags
      probes := if flags.probesOvr = true ∧ 1 ≤ lv then arg0.setWidth 12 else BitVec.ofNat 12 (probesOf lv)
      greedy := decide (lv ≤ 3), fast := decide (lv = 1) && !flags.filter, raw := decide (lv = 0)
      out := { BitSink.reset with fifo := if flags.zlib then [0x78#8, 0x01#8] else [] } } := by
  have hout : (if flags.zlib then BitSink.reset.puts [(0x78, 8), (0x01, 8)] else BitSink.reset) =
      { BitSink.reset with fifo := if flags.zlib then [0x78#8, 0x01#8] else [] } := by
    rw [puts_zlibHeader]
    cases flags.zlib <;> rfl
  simp only [Enc.opened, levelOf_eq h, hout, Bool.and_eq_true, decide_eq_true_eq]

theorem exec_encInit (lv : Nat) (zlib forceStatic filter crcTap probesOvr : Bool) (s : State) :
    exec (.encInit lv zlib forceStatic filter crcTap probesOvr) s = runCmd (do
      deny (decide (10 < lv)) .badLevel lv
      modify (State.setEnc · (Enc.opened lv { zlib, forceStatic, filter, crcTap, probesOvr } s.args.a0))
      finish .ok 0 0) s := rfl

theorem exec_encInit_of_le {lv : Nat} (h : lv ≤ 10) (zlib forceStatic filter crcTap probesOvr : Bool) (s : State) :
    exec (.encInit lv zlib forceStatic filter crcTap probesOvr) s = .next (completed
      (s.setEnc (Enc.opened lv { zlib, forceStatic, filter, crcTap, probesOvr } s.args.a0)) 0x00#8 0#32 0#32) := by
  rw [exec_encInit, decide_eq_false (Nat.not_lt.mpr h), runCmd_congr (bind_ok (deny_false _ _ s))]
  exact runCmd_modify_finish _ 0 0 s

/-- Settles O37: with the level accepted the opened encoder is that of the level table. -/
theorem encInitOpensTheStream : Obligations.EncInitOpensTheStream := by
  intro s lv zlib forceStatic filter crcTap probesOvr
  constructor
  · intro h
    rw [exec_encInit, decide_eq_true h]
    exact runCmd_of_raise (bind_of_raise (deny_true _ _ s))
  · intro h
    rw [exec_encInit_of_le h, opened_eq h]
    rfl

/-! The checks of ENC_RUN. -/

theorem readable_empty (s : State) (a : Word) : Readable s a.toNat 0 :=
  ⟨fun h => absurd h (Nat.lt_irrefl 0), a.isLt.le, fun _ h => absurd h (Nat.not_lt_zero _)⟩

theorem encReject_true (c : Cause) (info : Nat) (s : State) :
    encReject true c info s = (c.raise info : Cmd Unit) (s.setEncPhase .failed) := rfl

theorem encReject_false (c : Cause) (info : Nat) (s : State) : encReject false c info s = .ok () s := rfl

/-- The run that ENC_RUN begins once its checks have passed (R390). -/
def encStart (f i n o m : Nat) : Cmd Finish := fun t => encEnd (encBody i n o m f { s := t, c := 0, w := 0 })

theorem exec_encRun (f : Nat) (s : State) : exec (.encRun f) s = runCmd (do
    deny (s.enc.phase == .idle) .noStream 0
    deny (s.enc.phase == .failed) .streamFailed 0
    encReject (decide (4 < f)) .badFlush f
    encReject ((s.enc.phase == .finishing || s.enc.phase == .finished) && (f != 4 || decide (0 < s.args.a1.toNat)))
      .finishThenInput s.args.a1.toNat
    checkRange s.args.a0.toNat s.args.a1.toNat
    checkRange s.args.a2.toNat s.args.a3.toNat
    checkOverlap [(s.args.a0.toNat, s.args.a1.toNat)] (s.args.a2.toNat, s.args.a3.toNat)
    encStart f s.args.a0.toNat s.args.a1.toNat s.args.a2.toNat s.args.a3.toNat) s := rfl

section
variable {s : State} {f : Nat}

/-- In an open stream the checks of the flush and of what follows FINISH come first. -/
theorem exec_encRun_of_open (hidle : s.enc.phase ≠ .idle) (hfailed : s.enc.phase ≠ .failed) : exec (.encRun f) s = runCmd (do
    encReject (decide (4 < f)) .badFlush f
    encReject ((s.enc.phase == .finishing || s.enc.phase == .finished) && (f != 4 || decide (0 < s.args.a1.toNat)))
      .finishThenInput s.args.a1.toNat
    checkRange s.args.a0.toNat s.args.a1.toNat
    checkRange s.args.a2.toNat s.args.a3.toNat
    checkOverlap [(s.args.a0.toNat, s.args.a1.toNat)] (s.args.a2.toNat, s.args.a3.toNat)
    encStart f s.args.a0.toNat s.args.a1.toNat s.args.a2.toNat s.args.a3.toNat) s := by
  rw [exec_encRun, beq_false_of_ne hidle, beq_false_of_ne hfailed, runCmd_congr (bind_ok (deny_false _ _ s)),
    runCmd_congr (bind_ok (deny_false _ _ s))]

/-- With every check passed ENC_RUN is its run. -/
theorem exec_encRun_of_ready (hidle : s.enc.phase ≠ .idle) (hfailed : s.enc.phase ≠ .failed) (hf : f ≤ 4)
    (hmore : s.enc.phase = .finishing ∨ s.enc.phase = .finished → f = 4 ∧ s.args.a1.toNat = 0)
    (hin : Readable s s.args.a0.toNat s.args.a1.toNat) (hout : Writable s s.args.a2.toNat s.args.a3.toNat)
    (hapart : Apart s.args.a0.toNat s.args.a1.toNat s.args.a2.toNat s.args.a3.toNat) : exec (.encRun f) s =
      runCmd (encStart f s.args.a0.toNat s.args.a1.toNat s.args.a2.toNat s.args.a3.toNat) s := by
  obtain ⟨hin0, hinEnd, -⟩ := hin
  obtain ⟨hout0, houtEnd, -⟩ := hout
  have hno : [(s.args.a0.toNat, s.args.a1.toNat)].any (rangesOverlap (s.args.a2.toNat, s.args.a3.toNat)) = false := by
    simp [rangesOverlap_of_apart hapart]
  have hgoes : ((s.enc.phase == .finishing || s.enc.phase == .finished) && (f != 4 || decide (0 < s.args.a1.toNat))) = false := by
    by_contra h
    simp only [Bool.not_eq_false, Bool.and_eq_true, Bool.or_eq_true, beq_iff_eq, bne_iff_ne, decide_eq_true_eq] at h
    obtain ⟨rfl, hn⟩ := hmore h.1
    omega
  rw [exec_encRun_of_open hidle hfailed, decide_eq_false (Nat.not_lt.mpr hf), hgoes]
  refine runCmd_congr ?_
  rw [bind_ok (encReject_false _ _ s), bind_ok (encReject_false _ _ s), bind_ok (checkRange_ok s hin0 hinEnd),
    bind_ok (checkRange_ok s hout0 houtEnd), bind_ok (checkOverlap_ok s hno)]

/-- A call that brings no input and FINISH: the range of no bytes is readable, and apart from every other. -/
theorem exec_encRun_finish (hidle : s.enc.phase ≠ .idle) (hfailed : s.enc.phase ≠ .failed) (hn : s.args.a1 = 0#32)
    (hout : Writable s s.args.a2.toNat s.args.a3.toNat) :
    exec (.encRun 4) s = runCmd (encStart 4 s.args.a0.toNat 0 s.args.a2.toNat s.args.a3.toNat) s := by
  have hn : s.args.a1.toNat = 0 := by rw [hn]; rfl
  have := exec_encRun_of_ready hidle hfailed le_rfl (fun _ => ⟨rfl, hn⟩) (hn ▸ readable_empty s s.args.a0) hout (.inl hn)
  rwa [hn] at this

end

end Sys2Proof.Proofs
end

section
/-! SUPPORT. The parts of ENC_RUN's pseudocode: its end, and drain() (45_encoder.md R390). -/

namespace Sys2Proof.Proofs

open Sys2Proof.Machine Sys2Proof.Claims

/-! The end of a run. -/

/-- A run's pseudocode ends with done(code), or falls off its end with that code. -/
def EndsWith (res : EStateM.Result Stop Run Code) (code : Code) (r : Run) : Prop := res = .ok code r ∨ res = .error (.done code) r

theorem runCmd_encStart {f i n o m : Nat} {s : State} {code : Code} {r : Run}
    (h : EndsWith (encBody i n o m f { s := s, c := 0, w := 0 }) code r) (hcode : isError code.toByte = false) :
    runCmd (encStart f i n o m) s =
      .next (completed r.encTally code.toByte (BitVec.ofNat 32 r.c) (BitVec.ofNat 32 r.w)) := by
  refine runCmd_of_finish (f := r.finished code) ?_ hcode
  rw [encStart]
  obtain h | h := h
  · rw [h]; rfl
  · rw [h]; rfl

theorem encPending_run (r : Run) : encPending r = .ok (r.s.enc.out.fifo != []) r := rfl

theorem encStopIfPending_of_empty {r : Run} (h : r.s.enc.out.fifo = []) : encStopIfPending r = .ok () r := by
  rw [encStopIfPending, bind_ok (encPending_run r), h]
  rfl

theorem encStopIfPending_of_pending {r : Run} (h : r.s.enc.out.fifo ≠ []) :
    encStopIfPending r = .error (.done .hasMoreOutput) r := by
  rw [encStopIfPending, bind_ok (encPending_run r), bne_iff_ne.mpr h]
  rfl

/-! Bytes written to host memory. -/

/-- From `m` to `m'` the bytes `bs` were written at `a`. -/
structure Wrote (m m' : Memory) (a : Nat) (bs : List Byte) : Prop where
  wf : m.wf = true → m'.wf = true
  inside : m.wf = true → ∀ k b, bs[k]? = some b → m'.read (a + k) = b
  outside : ∀ x, x < a ∨ a + bs.length ≤ x → m'.read x = m.read x

theorem Wrote.nil (m : Memory) (a : Nat) : Wrote m m a [] :=
  ⟨id, fun _ k b h => by simp at h, fun _ _ => rfl⟩

theorem Wrote.byte (m : Memory) {a : Nat} (ha : a < 2 ^ 32) (b : Byte) : Wrote m (m.write a b) a [b] where
  wf h := Memory.wf_write b h ha
  inside h k x hk := by
    obtain ⟨rfl, rfl⟩ : k = 0 ∧ b = x := by simpa [List.getElem?_singleton] using hk
    exact Memory.read_write_self a b h
  outside x hx := Memory.read_write_ne m b (by simp at hx; omega)

theorem Wrote.append {m₁ m₂ m₃ : Memory} {a : Nat} {xs ys : List Byte} (hx : Wrote m₁ m₂ a xs)
    (hy : Wrote m₂ m₃ (a + xs.length) ys) : Wrote m₁ m₃ a (xs ++ ys) where
  wf h := hy.wf (hx.wf h)
  inside h k b hk := by
    obtain hlt | hge := Nat.lt_or_ge k xs.length
    · rw [hy.outside (a + k) (.inl (by omega))]
      exact hx.inside h k b (by rwa [List.getElem?_append_left hlt] at hk)
    · rw [List.getElem?_append_right hge] at hk
      rw [← hy.inside (hx.wf h) _ b hk]
      congr 1
      omega
  outside x hx' := by
    rw [List.length_append] at hx'
    rw [hy.outside x (by omega), hx.outside x (by omega)]

theorem Wrote.stored {s t : State} {a : Nat} {bs : List Byte} (h : Wrote s.mem t.mem a bs) (hwf : s.mem.wf = true) :
    Stored s t a bs := ⟨h.inside hwf, h.outside⟩

/-! drain(). -/

/-- A run after a drain that left host memory as `mem`: as many bytes of the FIFO as had room are gone from it. -/
def drainedTo (m : Nat) (mem : Memory) (r : Run) : Run :=
  { s := { r.s with mem := mem, enc := { r.s.enc with out := { r.s.enc.out with fifo := r.s.enc.out.fifo.drop (m - r.w) } } }
    c := r.c, w := r.w + (r.s.enc.out.fifo.take (m - r.w)).length }

theorem drainedTo_self {m : Nat} {r : Run} (h : r.s.enc.out.fifo.take (m - r.w) = []) : drainedTo m r.s.mem r = r := by
  have hdrop : r.s.enc.out.fifo.drop (m - r.w) = r.s.enc.out.fifo := by
    rw [← List.nil_append (List.drop _ _), ← h, List.take_append_drop]
  rw [drainedTo, hdrop, h]
  rfl

/-- A run after the first byte of its FIFO has been written. -/
def headWritten (o : Nat) (r : Run) (b : Byte) (rest : List Byte) : Run :=
  { r with s := { r.s.poke (o + r.w) b with enc := { r.s.enc with out := { r.s.enc.out with fifo := rest } } }, w := r.w + 1 }

theorem drainedTo_headWritten {m : Nat} {r : Run} {b : Byte} {rest : List Byte} (hfifo : r.s.enc.out.fifo = b :: rest)
    (hroom : r.w < m) (o : Nat) (mem : Memory) : drainedTo m mem (headWritten o r b rest) = drainedTo m mem r := by
  have hsub : m - r.w = m - (r.w + 1) + 1 := by omega
  rw [drainedTo.eq_def m mem r, hfifo, hsub, List.drop_succ_cons, List.take_succ_cons, List.length_cons,
    ← Nat.add_assoc, Nat.add_right_comm r.w]
  rfl

theorem encDrainUpTo_cons {o m k : Nat} {r : Run} {b : Byte} {rest : List Byte} (hfifo : r.s.enc.out.fifo = b :: rest)
    (hroom : r.w < m) (hok : r.s.memOk (o + r.w) .write = true) :
    encDrainUpTo o m (k + 1) r = encDrainUpTo o m k (headWritten o r b rest) := by
  have hwrite : busWrite (o + r.w) b r = .ok () { r with s := r.s.poke (o + r.w) b } := if_pos hok
  rw [encDrainUpTo, bind_ok (get_run r), hfifo]
  dsimp only
  rw [if_pos hroom]
  exact bind_ok hwrite

/-- Nothing to write, or no room. -/
theorem encDrainUpTo_stop {o m k : Nat} {r : Run} (h : r.s.enc.out.fifo = [] ∨ m ≤ r.w) :
    ∃ mem, encDrainUpTo o m k r = .ok () (drainedTo m mem r) ∧
      Wrote r.s.mem mem (o + r.w) (r.s.enc.out.fifo.take (m - r.w)) := by
  have htake : r.s.enc.out.fifo.take (m - r.w) = [] := by
    rw [List.take_eq_nil_iff, Nat.sub_eq_zero_iff_le]
    exact h.symm
  have hstop : encDrainUpTo o m k r = .ok () r := by
    cases k with
    | zero => rfl
    | succ k =>
      rw [encDrainUpTo, bind_ok (get_run r)]
      cases hfifo : r.s.enc.out.fifo with
      | nil => rfl
      | cons b rest =>
        dsimp only
        rw [if_neg (Nat.not_lt.mpr (h.resolve_left (by simp [hfifo])))]
        rfl
  exact ⟨r.s.mem, by rw [hstop, drainedTo_self htake], by rw [htake]; exact .nil _ _⟩

theorem encDrainUpTo_of_writable {o m k : Nat} {r : Run} (hok : ∀ j < m, r.s.memOk (o + j) .write = true)
    (hk : r.s.enc.out.fifo.length ≤ k) : ∃ mem, encDrainUpTo o m k r = .ok () (drainedTo m mem r) ∧
      Wrote r.s.mem mem (o + r.w) (r.s.enc.out.fifo.take (m - r.w)) := by
  induction k generalizing r with
  | zero => exact encDrainUpTo_stop (.inl (List.eq_nil_of_length_eq_zero (Nat.le_zero.mp hk)))
  | succ k ih =>
    by_cases hstop : r.s.enc.out.fifo = [] ∨ m ≤ r.w
    · exact encDrainUpTo_stop hstop
    · obtain ⟨hne, hroom⟩ := not_or.mp hstop
      obtain ⟨b, rest, hfifo⟩ := List.exists_cons_of_ne_nil hne
      have hroom := Nat.lt_of_not_le hroom
      rw [hfifo, List.length_cons] at hk
      obtain ⟨mem, hrest, hwrote⟩ := ih (r := headWritten o r b rest) hok (Nat.le_of_succ_le_succ hk)
      rw [drainedTo_headWritten hfifo hroom] at hrest
      refine ⟨mem, (encDrainUpTo_cons hfifo hroom (hok r.w hroom)).trans hrest, ?_⟩
      rw [hfifo, show m - r.w = m - (r.w + 1) + 1 by omega, List.take_succ_cons]
      exact (Wrote.byte r.s.mem (State.memOk_lt (hok r.w hroom)) b).append hwrote

/-- drain() into a writable range writes as many bytes of the FIFO as have room. -/
theorem encDrain_of_writable {o m : Nat} {r : Run} (hok : ∀ j < m, r.s.memOk (o + j) .write = true) :
    ∃ mem, encDrain o m r = .ok () (drainedTo m mem r) ∧ Wrote r.s.mem mem (o + r.w) (r.s.enc.out.fifo.take (m - r.w)) :=
  encDrainUpTo_of_writable hok le_rfl

/-- A run after a drain that had room for the whole FIFO and left host memory as `mem`. -/
def emptied (mem : Memory) (r : Run) : Run :=
  { s := { r.s with mem := mem, enc := { r.s.enc with out := { r.s.enc.out with fifo := [] } } }
    c := r.c, w := r.w + r.s.enc.out.fifo.length }

theorem encDrain_of_room {o m : Nat} {r : Run} (hok : ∀ j < m, r.s.memOk (o + j) .write = true)
    (hroom : r.w + r.s.enc.out.fifo.length ≤ m) :
    ∃ mem, encDrain o m r = .ok () (emptied mem r) ∧ Wrote r.s.mem mem (o + r.w) r.s.enc.out.fifo := by
  have hroom : r.s.enc.out.fifo.length ≤ m - r.w := Nat.le_sub_of_add_le' hroom
  obtain ⟨mem, hdrain, hwrote⟩ := encDrain_of_writable hok
  rw [drainedTo, List.drop_eq_nil_of_le hroom, List.take_of_length_le hroom] at hdrain
  rw [List.take_of_length_le hroom] at hwrote
  exact ⟨mem, hdrain, hwrote⟩

/-- A run whose encoder is in a phase. -/
def withPhase (p : EncPhase) (r : Run) : Run := { r with s := r.s.setEncPhase p }

/-! ENC_RUN after its first drain (R390, R393, R394). -/

section
variable {i n o m f : Nat} {r r' : Run} (hdrain : encDrain o m r = .ok () r')
include hdrain

theorem encBody_of_pending (hpending : r'.s.enc.out.fifo ≠ []) : EndsWith (encBody i n o m f r) .hasMoreOutput r' :=
  .inr ((bind_ok hdrain).trans (bind_error (encStopIfPending_of_pending hpending)))

variable (hempty : r'.s.enc.out.fifo = [])
include hempty

theorem encBody_of_finishing (hphase : r'.s.enc.phase = .finishing) :
    EndsWith (encBody i n o m f r) .done (withPhase .finished r') := by
  rw [encBody, bind_ok hdrain, bind_ok (encStopIfPending_of_empty hempty), bind_ok (get_run r'), hphase]
  exact .inl rfl

theorem encBody_of_finished (hphase : r'.s.enc.phase = .finished) : EndsWith (encBody i n o m f r) .done r' := by
  rw [encBody, bind_ok hdrain, bind_ok (encStopIfPending_of_empty hempty), bind_ok (get_run r'), hphase]
  exact .inl rfl

theorem encBody_of_drain (hphase : r'.s.enc.phase = .drain) (hnothing : n = 0 ∧ f ≠ 4) :
    EndsWith (encBody i n o m f r) .ok (withPhase .ready r') := by
  rw [encBody, bind_ok hdrain, bind_ok (encStopIfPending_of_empty hempty), bind_ok (get_run r'), hphase]
  dsimp only
  rw [if_pos hnothing]
  exact .inl rfl

/-- A stream that takes input is READY while it does. -/
theorem encBody_of_ready (hphase : r'.s.enc.phase = .ready ∨ r'.s.enc.phase = .drain ∧ ¬(n = 0 ∧ f ≠ 4)) :
    encBody i n o m f r = encAccept i n o m f (withPhase .ready r') := by
  rw [encBody, bind_ok hdrain, bind_ok (encStopIfPending_of_empty hempty), bind_ok (get_run r')]
  obtain hphase | ⟨hphase, hwork⟩ := hphase
  · have hsame : withPhase .ready r' = r' := by rw [withPhase, State.setEncPhase, ← hphase]
    rw [hsame, hphase]
  · rw [hphase]
    dsimp only
    rw [if_neg hwork]
    rfl

end

end Sys2Proof.Proofs
end

section
/-! SUPPORT. The calls of ENC_RUN that no input and no block's bits enter (45_encoder.md R390, R394 to R396). -/

namespace Sys2Proof.Proofs

open Sys2Proof.Machine Sys2Proof.Claims

/-- Settles O38: the checks in their order; a finished stream's run has nothing to write. -/
theorem encRunStateChecks : Obligations.EncRunStateChecks := by
  intro s f
  refine ⟨fun hidle => ?_, fun hfailed => ?_, fun hidle hfailed hf => ?_, fun hphase hf hmore => ?_,
    fun hphase hfifo hn hout => ?_⟩
  · rw [exec_encRun, hidle]
    exact runCmd_of_raise (bind_of_raise (deny_true _ _ s))
  · have hidle : s.enc.phase ≠ .idle := by simp [hfailed]
    rw [exec_encRun, beq_false_of_ne hidle, beq_iff_eq.mpr hfailed, runCmd_congr (bind_ok (deny_false _ _ s))]
    exact runCmd_of_raise (bind_of_raise (deny_true _ _ s))
  · rw [exec_encRun_of_open hidle hfailed, decide_eq_true hf]
    exact runCmd_of_raise (bind_of_raise (encReject_true _ f s))
  · have hopen : s.enc.phase ≠ .idle ∧ s.enc.phase ≠ .failed := by obtain h | h := hphase <;> simp [h]
    have hbad : ((s.enc.phase == .finishing || s.enc.phase == .finished) && (f != 4 || decide (0 < s.args.a1.toNat))) = true := by
      simpa using ⟨hphase, hmore⟩
    rw [exec_encRun_of_open hopen.1 hopen.2, decide_eq_false (Nat.not_lt.mpr hf), hbad,
      runCmd_congr (bind_ok (encReject_false _ _ s)), runCmd_of_raise (bind_of_raise (encReject_true _ _ s)), ofNat_toNat_word]
    rfl
  · have hdrain : encDrain s.args.a2.toNat s.args.a3.toNat { s := s, c := 0, w := 0 } = .ok () { s := s, c := 0, w := 0 } := by
      rw [encDrain, bind_ok (get_run _), hfifo]
      rfl
    rw [exec_encRun_finish (by simp [hphase]) (by simp [hphase]) hn hout,
      runCmd_encStart (encBody_of_finished hdrain hfifo hphase) rfl]
    simp only [Run.encTally, BitVec.add_zero]
    rfl

/-- Settles O40: the FIFO's bytes go out in order, and the stream is FINISHED when none is left. -/
theorem finishingStreamDrains : Obligations.FinishingStreamDrains := by
  rintro s o m hwf rfl rfl hphase hn hout
  have ⟨_, _, hok⟩ := hout
  rw [exec_encRun_finish (by simp [hphase]) (by simp [hphase]) hn hout]
  obtain hover | hfit := Nat.lt_or_ge s.args.a3.toNat s.enc.out.fifo.length
  · obtain ⟨mem, hdrain, hwrote⟩ := encDrain_of_writable (r := { s := s, c := 0, w := 0 }) hok
    have hpending : s.enc.out.fifo.drop s.args.a3.toNat ≠ [] := by
      rw [Ne, List.drop_eq_nil_iff]
      exact Nat.not_le.mpr hover
    rw [runCmd_encStart (encBody_of_pending hdrain hpending) rfl]
    refine ⟨_, rfl, hwrote.stored hwf, fun h => absurd h (Nat.not_le.mpr hover), fun _ => ?_⟩
    simp only [Run.encTally, BitVec.add_zero, drainedTo, Nat.zero_add, Nat.sub_zero, List.length_take_of_le hover.le]
    rfl
  · obtain ⟨mem, hdrain, hwrote⟩ := encDrain_of_room (r := { s := s, c := 0, w := 0 }) hok ((Nat.zero_add _).trans_le hfit)
    rw [runCmd_encStart (encBody_of_finishing hdrain rfl hphase) rfl]
    rw [← List.take_of_length_le hfit] at hwrote
    refine ⟨_, rfl, hwrote.stored hwf, fun _ => ?_, fun h => absurd h (Nat.not_lt.mpr hfit)⟩
    simp only [Run.encTally, withPhase, BitVec.add_zero, emptied, Nat.zero_add]
    rfl

end Sys2Proof.Proofs
end

section
/-! SUPPORT. ENC_RUN once its input has been taken (45_encoder.md R390, R393), and the stream of no bytes (R417, R420, R421). -/

namespace Sys2Proof.Proofs

open Sys2Proof.Machine Sys2Proof.Claims

/-! After the input. -/

/-- A run whose encoder has been flushed. -/
def flushed (f : Nat) (r : Run) : Run := { r with s := r.s.setEnc (r.s.enc.flush f) }

/-- The end of a flush: the phase, by whether the FIFO still holds bytes (R390). -/
def encClose (f : Nat) : RunM Code := do
  let pending ← encPending
  if f = 4 then
    if pending then
      encPhase .finishing
      return .hasMoreOutput
    else
      encPhase .finished
      return .done
  else
    if pending then
      encPhase .drain
      return .hasMoreOutput
    else return .ok

theorem encClose_run (f : Nat) (r : Run) : encClose f r =
    if r.s.enc.out.fifo = [] then
      if f = 4 then .ok .done (withPhase .finished r) else .ok .ok r
    else .ok .hasMoreOutput (withPhase (if f = 4 then .finishing else .drain) r) := by
  rw [encClose, bind_ok (encPending_run r)]
  by_cases hempty : r.s.enc.out.fifo = []
  · rw [if_pos hempty, hempty]
    split <;> rfl
  · rw [if_neg hempty, bne_iff_ne.mpr hempty]
    split <;> rfl

section
variable {i n o m f : Nat} {r r₁ : Run} (hfeed : encFeed i o m n r = .ok () r₁) (hempty : r₁.s.enc.out.fifo = [])
include hfeed hempty

theorem encAccept_of_noFlush (hf : f = 0) : EndsWith (encAccept i n o m f r) .ok r₁ := by
  subst hf
  exact .inr ((bind_ok hfeed).trans ((bind_ok (encStopIfPending_of_empty hempty)).trans rfl))

theorem encAccept_of_flush (hf : f ≠ 0) {r₂ : Run} (hdrain : encDrain o m (flushed f r₁) = .ok () r₂) :
    encAccept i n o m f r = encClose f r₂ := by
  have hflush : doneIf (f == 0) .ok r₁ = .ok () r₁ := by rw [beq_false_of_ne hf]; rfl
  rw [encAccept, bind_ok hfeed, bind_ok (encStopIfPending_of_empty hempty), bind_ok hflush]
  exact (bind_ok (modify_run _ r₁)).trans (bind_ok hdrain)

end

/-! The stream of no bytes. -/

/-- The end-of-block symbol is the first of the fixed code's seven-bit codes (44_deflate_format.md R336). -/
theorem field_endOfBlock : (CodeTable.of fixedLit).field 256 = (0, 7) := by
  have hused : fixedLit[256]? = some 7 := by simp [fixedLit, -List.reduceReplicate]
  have hshorter : codesEnd fixedLit 6 = 0 := by simp [codesEnd, fixedLit, -List.reduceReplicate]
  have hbefore : (fixedLit.take 256).count 7 = 0 := by
    simp [fixedLit, List.take_append, List.count_replicate, -List.reduceReplicate]
  have hcode : (canonicalCodes fixedLit).getD 256 0 = 0 := by
    rw [← codeOf, codeOf_eq hused (by decide) (by decide), hshorter, hbefore]
  rw [CodeTable.field, CodeTable.of, hcode, List.getD_eq_getElem?_getD, hused]
  rfl

/-- The zlib trailer of no bytes (R420). -/
def emptyTrailer (zlib : Bool) : List Byte := if zlib then [0x00#8, 0x00#8, 0x00#8, 0x01#8] else []

/-- The final block of no bytes: stored at level 0, static at the others (R417, R421). -/
def emptyBlock (raw : Bool) : List Byte := if raw then [0x01#8, 0x00#8, 0x00#8, 0xFF#8, 0xFF#8] else [0x03#8, 0x00#8]

theorem putBlock_of_empty {e : Enc} (htokens : e.tokens = []) (hnone : e.blockRaw = 0) (hout : e.out = BitSink.reset) :
    (e.putBlock true).align = { BitSink.reset with fifo := emptyBlock e.raw } := by
  cases hraw : e.raw with
  | true =>
    have hkind : e.kind = .stored := by rw [Enc.kind, blockKind, hraw, if_pos rfl]
    rw [Enc.putBlock, hkind, hout, hnone, Enc.rawBytes, hnone, List.take_zero]
    exact (by decide : (putStored BitSink.reset true 0 []).align = { BitSink.reset with fifo := emptyBlock true })
  | false =>
    have hkind : e.kind = .static := by
      rw [Enc.kind, blockKind, hraw, hnone]
      simp
    rw [Enc.putBlock, hkind, hout, htokens, staticFields, bodyFields, List.flatMap_nil, List.nil_append, field_endOfBlock]
    exact (by decide : (BitSink.reset.puts [(1, 1), (1, 2), (0, 7)]).align = { BitSink.reset with fifo := emptyBlock false })

/-- An encoder that has taken no byte and has no record. -/
structure HoldsNothing (e : Enc) : Prop where
  input : e.input = []
  tokens : e.tokens = []
  blockRaw : e.blockRaw = 0
  adler : e.adler = 1#32

/-- FINISH of an encoder that holds nothing (R416, R420). -/
theorem fifo_flush_of_holdsNothing {e : Enc} (h : HoldsNothing e) (hout : e.out = BitSink.reset) :
    (e.flush 4).out.fifo = emptyBlock e.raw ++ emptyTrailer e.flags.zlib := by
  have hparse : e.parse 1 (e.input.length - e.pos) = e := by rw [h.input, List.length_nil, Nat.zero_sub]; rfl
  have hend : (e.flush 4).out =
      (e.putBlock true).align.puts (if e.flags.zlib then byteFields (bytesBE32 e.adler.toNat) else []) := by
    rw [Enc.flush, hparse]
    rfl
  rw [hend, putBlock_of_empty h.tokens h.blockRaw hout, h.adler]
  cases e.raw <;> cases e.flags.zlib <;> decide

/-- FINISH of an encoder that holds nothing but bytes of the FIFO, into a range with room for them and the rest of the stream: the
bytes go out with the first drain, the block and the trailer with the second. -/
theorem encRun_of_holdsNothing {s : State} {header rest : List Byte} (hwf : s.mem.wf = true) (hphase : s.enc.phase = .ready)
    (hn : s.args.a1 = 0#32) (hout : Writable s s.args.a2.toNat s.args.a3.toNat) (hnothing : HoldsNothing s.enc)
    (hsink : s.enc.out = { bitbuf := 0#32, nbits := 0, fifo := header })
    (hrest : rest = emptyBlock s.enc.raw ++ emptyTrailer s.enc.flags.zlib)
    (hroom : header.length + rest.length ≤ s.args.a3.toNat) :
    ∃ t, exec (.encRun 4) s = .next t ∧ t.status.code = 0x01#8 ∧ t.result0 = 0#32 ∧
      t.result1 = BitVec.ofNat 32 (header ++ rest).length ∧ Stored s t s.args.a2.toNat (header ++ rest) ∧
      t.enc.phase = .finished := by
  have ⟨_, _, hok⟩ := hout
  have hheader : s.enc.out.fifo = header := by rw [hsink]
  obtain ⟨mem, hdrain, hwrote⟩ := encDrain_of_room (r := { s := s, c := 0, w := 0 }) hok
    (by rw [hheader, Nat.zero_add]; exact Nat.le_of_add_right_le hroom)
  obtain ⟨r₁, hr₁⟩ : ∃ r₁, r₁ = flushed 4 (withPhase .ready (emptied mem { s := s, c := 0, w := 0 })) := ⟨_, rfl⟩
  have hw₁ : r₁.w = header.length := by rw [hr₁, ← hheader]; exact Nat.zero_add _
  have hfifo₁ : r₁.s.enc.out.fifo = rest := by
    rw [hr₁, hrest]
    exact fifo_flush_of_holdsNothing ⟨hnothing.input, hnothing.tokens, hnothing.blockRaw, hnothing.adler⟩
      (congrArg (fun out : BitSink => { out with fifo := [] }) hsink)
  have hok₁ : ∀ k < s.args.a3.toNat, r₁.s.memOk (s.args.a2.toNat + k) .write = true := by
    rw [hr₁]
    exact hok
  obtain ⟨mem₂, hdrain₂, hwrote₂⟩ := encDrain_of_room hok₁ (by rwa [hw₁, hfifo₁])
  have hrun : encBody s.args.a0.toNat 0 s.args.a2.toNat s.args.a3.toNat 4 { s := s, c := 0, w := 0 } =
      .ok .done (withPhase .finished (emptied mem₂ r₁)) := by
    rw [encBody_of_ready hdrain rfl (.inl hphase), encAccept_of_flush rfl rfl (by decide) (hr₁ ▸ hdrain₂), encClose_run, hr₁]
    rfl
  rw [exec_encRun_finish (by simp [hphase]) (by simp [hphase]) hn hout, runCmd_encStart (.inl hrun) rfl]
  refine ⟨_, rfl, rfl, by rw [hr₁]; rfl, ?_, ?_, rfl⟩
  · rw [List.length_append, ← hw₁, ← hfifo₁]
    rfl
  · rw [hfifo₁, hw₁] at hwrote₂
    rw [hheader] at hwrote
    rw [hr₁] at hwrote₂
    exact Wrote.stored (Wrote.append hwrote hwrote₂) hwf

/-- ENC_RUN with FINISH and no input right after an ENC_INIT that opened the encoder (R380). -/
theorem encRun_of_opened {s : State} {lv : Nat} (flags : EncFlags) {bs : List Byte} (hlv : lv ≤ 10) (hwf : s.mem.wf = true)
    (hn : s.args.a1 = 0#32) (hout : Writable s s.args.a2.toNat s.args.a3.toNat) (hroom : 11 ≤ s.args.a3.toNat)
    (hbs : bs = (if flags.zlib then [0x78#8, 0x01#8] else []) ++ (emptyBlock (decide (lv = 0)) ++ emptyTrailer flags.zlib)) :
    ∃ u, exec (.encRun 4) (completed (s.setEnc (Enc.opened lv flags s.args.a0)) 0x00#8 0#32 0#32) = .next u ∧
      u.status.code = 0x01#8 ∧ u.result0 = 0#32 ∧ u.result1 = BitVec.ofNat 32 bs.length ∧
      Stored s u s.args.a2.toNat bs ∧ u.enc.phase = .finished := by
  have hlength : ((if flags.zlib then [0x78#8, 0x01#8] else []) : List Byte).length +
      (emptyBlock (decide (lv = 0)) ++ emptyTrailer flags.zlib).length ≤ 11 := by
    cases flags.zlib <;> cases decide (lv = 0) <;> decide
  rw [opened_eq hlv, hbs]
  exact encRun_of_holdsNothing (s := completed (s.setEnc _) 0x00#8 0#32 0#32) hwf rfl hn hout ⟨rfl, rfl, rfl, rfl⟩ rfl rfl
    (hlength.trans hroom)

/-- Settles O41: ENC_INIT opens an encoder that holds nothing but the zlib header. -/
theorem emptyStreamBytes : Obligations.EmptyStreamBytes := by
  intro s lv zlib forceStatic filter crcTap probesOvr bs hwf hlv hn hout hroom hbs
  obtain ⟨u, hrun⟩ := encRun_of_opened { zlib, forceStatic, filter, crcTap, probesOvr } hlv hwf hn hout hroom (bs := bs) (by
    rw [hbs, List.append_assoc]
    simp only [emptyBlock, decide_eq_true_eq, emptyTrailer])
  exact ⟨_, u, exec_encInit_of_le hlv zlib forceStatic filter crcTap probesOvr s, hrun⟩

end Sys2Proof.Proofs
end

section
/-! SUPPORT. What ENC_RUN keeps account of (45_encoder.md R390 to R392): no parse, block or flush changes it. -/

namespace Sys2Proof.Proofs

open Sys2Proof.Machine Sys2Proof.Claims

/-- The part of the encoder that ENC_INIT and ENC_RUN themselves keep (R380, R390, R391). -/
structure Books where
  phase : EncPhase
  flags : EncFlags
  input : List Byte
  adler : Word
  totalIn : Word
  totalOut : Word

def books (e : Enc) : Books :=
  { phase := e.phase, flags := e.flags, input := e.input, adler := e.adler, totalIn := e.totalIn, totalOut := e.totalOut }

theorem books_closeBlock (e : Enc) (final : Bool) : books (e.closeBlock final) = books e := rfl

theorem books_emit (e : Enc) (t : Token) : books (e.emit t) = books e := by
  rw [emit_eq]
  split
  · exact books_closeBlock _ false
  · rfl

theorem books_parseFresh (e : Enc) (m : Match) : books (e.parseFresh m) = books e := by
  unfold Enc.parseFresh
  split
  · exact books_emit _ _
  · split
    · exact books_emit _ _
    · rfl

theorem books_parseHeld (e : Enc) (m held : Match) : books (e.parseHeld m held) = books e := by
  unfold Enc.parseHeld
  split
  · exact books_emit _ _
  · exact books_emit _ _

theorem books_step (e : Enc) : books e.step = books e := by
  unfold Enc.step
  split
  · exact books_emit _ _
  · dsimp only
    split
    · exact books_parseHeld _ _ _
    · exact books_parseFresh _ _

theorem books_parse (ahead k : Nat) (e : Enc) : books (Enc.parse ahead k e) = books e := by
  induction k generalizing e with
  | zero => rfl
  | succ k ih =>
    unfold Enc.parse
    split
    · exact (ih e.step).trans (books_step e)
    · rfl

theorem books_consume (e : Enc) (b : Byte) :
    books (e.consume b) = { books e with input := e.input ++ [b], adler := adlerUpdate e.adler [b] } := books_parse _ _ _

theorem books_boundary (e : Enc) : books e.boundary = books e := by
  unfold Enc.boundary
  dsimp only
  split <;> rfl

theorem books_flush (e : Enc) (f : Nat) : books (e.flush f) = books e := by
  unfold Enc.flush
  dsimp only
  split
  · exact books_parse _ _ e
  · split
    · exact (books_boundary _).trans (books_parse _ _ e)
    · exact (books_boundary _).trans (books_parse _ _ e)

end Sys2Proof.Proofs
end

section
/-! SUPPORT. ENC_RUN on an open stream (45_encoder.md R390 to R394). -/

namespace Sys2Proof.Proofs

open Sys2Proof.Machine Sys2Proof.Claims

theorem crcUpdate_nil (acc : Word) : crcUpdate acc [] = acc := by
  rw [crcUpdate, List.foldl_nil, BitVec.xor_assoc, BitVec.xor_self, BitVec.xor_zero]

theorem bytesAt_succ_last (s : State) (a n : Nat) : bytesAt s a (n + 1) = bytesAt s a n ++ [s.mem.read (a + n)] := by
  rw [bytesAt, List.range_succ, List.map_append]
  rfl

/-- The state without what ENC_RUN writes: host memory, the encoder and CRC_ACC. -/
def untouched (s : State) : State := { s with mem := [], enc := Enc.reset, crcAcc := 0#32 }

theorem eq_of_untouched {s t : State} (h : untouched t = untouched s) :
    t = { s with mem := t.mem, enc := t.enc, crcAcc := t.crcAcc } :=
  congrArg (fun u : State => { u with mem := t.mem, enc := t.enc, crcAcc := t.crcAcc }) h

/-- A run of ENC_RUN, begun in `s`, whose encoder is in the phase `p`: it has accounted for the bytes consumed, and it has written
no byte outside the part of the output range that it has used. -/
structure Progress (s : State) (p : EncPhase) (r : Run) : Prop where
  elsewhere : untouched r.s = untouched s
  books : books r.s.enc = { books s.enc with
    phase := p, input := s.enc.input ++ bytesAt s s.args.a0.toNat r.c
    adler := adlerUpdate s.enc.adler (bytesAt s s.args.a0.toNat r.c) }
  crc : r.s.crcAcc = if s.enc.flags.crcTap then crcUpdate s.crcAcc (bytesAt s s.args.a0.toNat r.c) else s.crcAcc
  room : r.w ≤ s.args.a3.toNat
  outside : ∀ x, x < s.args.a2.toNat ∨ s.args.a2.toNat + r.w ≤ x → r.s.mem.read x = s.mem.read x

theorem Progress.start (s : State) : Progress s s.enc.phase { s := s, c := 0, w := 0 } where
  elsewhere := rfl
  books := by
    rw [show bytesAt s s.args.a0.toNat 0 = [] from rfl, List.append_nil]
    rfl
  crc := by
    rw [show bytesAt s s.args.a0.toNat 0 = [] from rfl, crcUpdate_nil, ite_self]
  room := Nat.zero_le _
  outside := fun _ _ => rfl

section
variable {s : State} {p : EncPhase} {r : Run} (h : Progress s p r)
include h

theorem Progress.withPhase (q : EncPhase) : Progress s q (withPhase q r) where
  elsewhere := h.elsewhere
  books := congrArg (fun b : Books => { b with phase := q }) h.books
  crc := h.crc
  room := h.room
  outside := h.outside

theorem Progress.flushed (f : Nat) : Progress s p (flushed f r) where
  elsewhere := h.elsewhere
  books := (books_flush _ f).trans h.books
  crc := h.crc
  room := h.room
  outside := h.outside

theorem Progress.phase_eq : r.s.enc.phase = p := congrArg Books.phase h.books

theorem Progress.memOk (a : Nat) (w : Access) : r.s.memOk a w = s.memOk a w := by
  have hplat : (untouched r.s).plat = (untouched s).plat := congrArg State.plat h.elsewhere
  exact congrArg (fun plat : Platform => decide (a < 2 ^ 32) && !(plat.holes.any fun hole => hole.refuses a w)) hplat

/-- drain() writes in the output range, as far as it has been used then. -/
theorem Progress.drain (hout : Writable s s.args.a2.toNat s.args.a3.toNat) :
    ∃ r', encDrain s.args.a2.toNat s.args.a3.toNat r = .ok () r' ∧ Progress s p r' ∧ r'.c = r.c := by
  obtain ⟨-, -, hok⟩ := hout
  obtain ⟨mem, hdrain, hwrote⟩ := encDrain_of_writable fun j hj => (h.memOk _ _).trans (hok j hj)
  have hroom := h.room
  have hlength := List.length_take_le (s.args.a3.toNat - r.w) r.s.enc.out.fifo
  refine ⟨_, hdrain, ⟨h.elsewhere, h.books, h.crc, ?_, fun x hx => ?_⟩, rfl⟩
  · dsimp only [drainedTo]
    omega
  · dsimp only [drainedTo] at hx
    exact (hwrote.outside x (by omega)).trans (h.outside x (by omega))

/-- One byte of the input: it is still the one that memory held when the run began, because the two ranges are apart. -/
theorem Progress.consume (hin : Readable s s.args.a0.toNat s.args.a1.toNat)
    (hapart : Apart s.args.a0.toNat s.args.a1.toNat s.args.a2.toNat s.args.a3.toNat) (hc : r.c < s.args.a1.toNat) :
    ∃ b, busRead (s.args.a0.toNat + r.c) r = .ok b r ∧ Progress s p { r with s := r.s.encConsume b, c := r.c + 1 } := by
  obtain ⟨-, -, hok⟩ := hin
  have hroom := h.room
  have hbyte : r.s.mem.read (s.args.a0.toNat + r.c) = s.mem.read (s.args.a0.toNat + r.c) := by
    refine h.outside _ ?_
    rw [Apart] at hapart
    omega
  have hread : busRead (s.args.a0.toNat + r.c) r = .ok (s.mem.read (s.args.a0.toNat + r.c)) r := by
    rw [← hbyte]
    exact if_pos ((h.memOk _ _).trans (hok r.c hc))
  have hinput : r.s.enc.input = s.enc.input ++ bytesAt s s.args.a0.toNat r.c := congrArg Books.input h.books
  have hadler : r.s.enc.adler = adlerUpdate s.enc.adler (bytesAt s s.args.a0.toNat r.c) := congrArg Books.adler h.books
  have hflags : r.s.enc.flags = s.enc.flags := congrArg Books.flags h.books
  refine ⟨_, hread, h.elsewhere, ?_, ?_, hroom, h.outside⟩
  · rw [State.encConsume_enc, books_consume, h.books, hinput, hadler, adlerUpdate_append, List.append_assoc,
      bytesAt_succ_last]
  · rw [State.encConsume_crcAcc, hflags, h.crc, bytesAt_succ_last]
    split
    · exact crcUpdate_append _ _ _
    · rfl

end

/-- How ENC_RUN with the flush `f`, begun in `s`, completes: it stops at bytes that do not fit, or it has taken all its input. -/
def Completes (s : State) (f : Nat) (code : Code) (r : Run) : Prop :=
  ∃ p, Progress s p r ∧
    (code = .hasMoreOutput ∧ r.s.enc.out.fifo ≠ [] ∧ r.c ≤ s.args.a1.toNat ∨
      r.s.enc.out.fifo = [] ∧ r.c = s.args.a1.toNat ∧ (code = .ok ∧ p = .ready ∨ code = .done ∧ f = 4 ∧ p = .finished))

/-- After the flush's drain (R390). -/
theorem Progress.close {s : State} {f : Nat} {r : Run} (h : Progress s .ready r) (hc : r.c = s.args.a1.toNat) :
    ∃ code r', encClose f r = .ok code r' ∧ Completes s f code r' := by
  rw [encClose_run]
  split
  · next hempty =>
    split
    · next hf => exact ⟨_, _, rfl, _, h.withPhase .finished, .inr ⟨hempty, hc, .inr ⟨rfl, hf, rfl⟩⟩⟩
    · exact ⟨_, _, rfl, _, h, .inr ⟨hempty, hc, .inl ⟨rfl, rfl⟩⟩⟩
  · next hpending => exact ⟨_, _, rfl, _, h.withPhase _, .inl ⟨rfl, hpending, hc.le⟩⟩

section
variable {s : State} {f : Nat} (hin : Readable s s.args.a0.toNat s.args.a1.toNat)
  (hout : Writable s s.args.a2.toNat s.args.a3.toNat)
  (hapart : Apart s.args.a0.toNat s.args.a1.toNat s.args.a2.toNat s.args.a3.toNat)
include hin hout hapart

/-- The loop takes all the input that is left, or stops at the first bytes that do not fit (R390, R392). -/
theorem Progress.feed {p : EncPhase} {k : Nat} {r : Run} (h : Progress s p r) (hk : r.c + k = s.args.a1.toNat) :
    ∃ r', Progress s p r' ∧
      (encFeed s.args.a0.toNat s.args.a2.toNat s.args.a3.toNat k r = .ok () r' ∧ r'.c = s.args.a1.toNat ∨
        encFeed s.args.a0.toNat s.args.a2.toNat s.args.a3.toNat k r = .error (.done .hasMoreOutput) r' ∧
          r'.s.enc.out.fifo ≠ [] ∧ r'.c ≤ s.args.a1.toNat) := by
  induction k generalizing r with
  | zero => exact ⟨r, h, .inl ⟨rfl, hk⟩⟩
  | succ k ih =>
    by_cases hempty : r.s.enc.out.fifo = []
    · obtain ⟨b, hread, hconsumed⟩ := h.consume hin hapart (by omega)
      obtain ⟨r₁, hdrain, h₁, hc₁⟩ := hconsumed.drain hout
      obtain ⟨r', h', hends⟩ := ih h₁ (by rw [hc₁]; dsimp only; omega)
      have hnext : encFeed s.args.a0.toNat s.args.a2.toNat s.args.a3.toNat (k + 1) r =
          encFeed s.args.a0.toNat s.args.a2.toNat s.args.a3.toNat k r₁ :=
        (bind_ok (encStopIfPending_of_empty hempty)).trans ((bind_ok (get_run r)).trans ((bind_ok hread).trans
          ((bind_ok (modify_run _ r)).trans (bind_ok hdrain))))
      exact ⟨r', h', hnext ▸ hends⟩
    · exact ⟨r, h, .inr ⟨bind_error (encStopIfPending_of_pending hempty), hempty, by omega⟩⟩

/-- A READY stream takes its input and is flushed (R390, R393). -/
theorem Progress.accept {r : Run} (h : Progress s .ready r) (hc : r.c = 0) : ∃ code r',
    EndsWith (encAccept s.args.a0.toNat s.args.a1.toNat s.args.a2.toNat s.args.a3.toNat f r) code r' ∧
      Completes s f code r' := by
  obtain ⟨r₁, h₁, ⟨hfeed, hc₁⟩ | ⟨hfeed, hpending, hle⟩⟩ := h.feed hin hout hapart (by rw [hc, Nat.zero_add])
  · by_cases hempty : r₁.s.enc.out.fifo = []
    · by_cases hf : f = 0
      · exact ⟨_, _, encAccept_of_noFlush hfeed hempty hf, _, h₁, .inr ⟨hempty, hc₁, .inl ⟨rfl, rfl⟩⟩⟩
      · obtain ⟨r₂, hdrain, h₂, hc₂⟩ := (h₁.flushed f).drain hout
        obtain ⟨code, r', hclose, hcompletes⟩ := h₂.close (f := f) (hc₂.trans hc₁)
        exact ⟨code, r', .inl ((encAccept_of_flush hfeed hempty hf hdrain).trans hclose), hcompletes⟩
    · exact ⟨_, r₁, .inr ((bind_ok hfeed).trans (bind_error (encStopIfPending_of_pending hempty))), _, h₁,
        .inl ⟨rfl, hempty, hc₁.le⟩⟩
  · exact ⟨_, r₁, .inr (bind_error hfeed), _, h₁, .inl ⟨rfl, hpending, hle⟩⟩

/-- A call with its checks passed completes. -/
theorem encBody_completes (hidle : s.enc.phase ≠ .idle) (hfailed : s.enc.phase ≠ .failed)
    (hmore : s.enc.phase = .finishing ∨ s.enc.phase = .finished → f = 4 ∧ s.args.a1.toNat = 0) : ∃ code r,
    EndsWith (encBody s.args.a0.toNat s.args.a1.toNat s.args.a2.toNat s.args.a3.toNat f { s := s, c := 0, w := 0 }) code r ∧
      Completes s f code r := by
  obtain ⟨r₁, hdrain, h₁, hc₁⟩ := (Progress.start s).drain hout
  have hphase₁ := h₁.phase_eq
  have hc₁ : r₁.c = 0 := hc₁
  by_cases hempty : r₁.s.enc.out.fifo = []
  · cases hphase : s.enc.phase with
    | idle => exact absurd hphase hidle
    | failed => exact absurd hphase hfailed
    | ready =>
      rw [encBody_of_ready hdrain hempty (.inl (hphase₁.trans hphase))]
      exact (h₁.withPhase .ready).accept hin hout hapart hc₁
    | drain =>
      by_cases hnothing : s.args.a1.toNat = 0 ∧ f ≠ 4
      · exact ⟨_, _, encBody_of_drain hdrain hempty (hphase₁.trans hphase) hnothing, _, h₁.withPhase .ready,
          .inr ⟨hempty, hc₁.trans hnothing.1.symm, .inl ⟨rfl, rfl⟩⟩⟩
      · rw [encBody_of_ready hdrain hempty (.inr ⟨hphase₁.trans hphase, hnothing⟩)]
        exact (h₁.withPhase .ready).accept hin hout hapart hc₁
    | finishing =>
      obtain ⟨hf, hn⟩ := hmore (.inl hphase)
      exact ⟨_, _, encBody_of_finishing hdrain hempty (hphase₁.trans hphase), _, h₁.withPhase .finished,
        .inr ⟨hempty, hc₁.trans hn.symm, .inr ⟨rfl, hf, rfl⟩⟩⟩
    | finished =>
      obtain ⟨hf, hn⟩ := hmore (.inr hphase)
      exact ⟨_, _, encBody_of_finished hdrain hempty (hphase₁.trans hphase), _, h₁,
        .inr ⟨hempty, hc₁.trans hn.symm, .inr ⟨rfl, hf, hphase⟩⟩⟩
  · exact ⟨_, _, encBody_of_pending hdrain hempty, _, h₁, .inl ⟨rfl, hempty, by omega⟩⟩

end

theorem isError_of_completes {s : State} {f : Nat} {code : Code} {r : Run} (h : Completes s f code r) :
    isError code.toByte = false := by
  obtain ⟨p, -, ⟨rfl, -⟩ | ⟨-, -, ⟨rfl, -⟩ | ⟨rfl, -⟩⟩⟩ := h
  · rfl
  · rfl
  · rfl

/-- What the code of a completion says (R390, R393). -/
theorem code_of_completes {s : State} {f : Nat} {code : Code} {r : Run} (h : Completes s f code r) :
    r.c ≤ s.args.a1.toNat ∧ (code.toByte = 0x00#8 ∨ code.toByte = 0x01#8 ∨ code.toByte = 0x03#8) ∧
      (code.toByte = 0x03#8 ↔ r.s.enc.out.fifo ≠ []) ∧ (code.toByte ≠ 0x03#8 → r.c = s.args.a1.toNat) ∧
      (code.toByte = 0x00#8 → r.s.enc.phase = .ready) ∧ (code.toByte = 0x01#8 → f = 4 ∧ r.s.enc.phase = .finished) := by
  obtain ⟨p, hprogress, ⟨rfl, hpending, hle⟩ | ⟨hempty, hc, ⟨rfl, rfl⟩ | ⟨rfl, hf, rfl⟩⟩⟩ := h
  · exact ⟨hle, .inr (.inr rfl), iff_of_true rfl hpending, fun h => absurd rfl h, fun h => absurd h (by decide),
      fun h => absurd h (by decide)⟩
  · exact ⟨hc.le, .inl rfl, iff_of_false (by decide) (not_not.mpr hempty), fun _ => hc, fun _ => hprogress.phase_eq,
      fun h => absurd h (by decide)⟩
  · exact ⟨hc.le, .inr (.inl rfl), iff_of_false (by decide) (not_not.mpr hempty), fun _ => hc,
      fun h => absurd h (by decide), fun _ => ⟨hf, hprogress.phase_eq⟩⟩

/-- Settles O39: the run accounts for its bytes as it goes, and its end adds them to the totals. -/
theorem encRunCompletes : Obligations.EncRunCompletes := by
  rintro s f i n o m rfl rfl rfl rfl hidle hfailed hf hmore hin hout hapart
  obtain ⟨code, r, hends, hcompletes⟩ := encBody_completes hin hout hapart hidle hfailed hmore
  have hrun := (exec_encRun_of_ready hidle hfailed hf hmore hin hout hapart).trans
    (runCmd_encStart hends (isError_of_completes hcompletes))
  obtain ⟨hle, hcodes, hmoreOutput, hall, hready, hdone⟩ := code_of_completes hcompletes
  obtain ⟨p, h, -⟩ := hcompletes
  have htally : untouched r.encTally = untouched s := h.elsewhere
  exact ⟨_, code.toByte, r.c, r.w, hrun, congrArg (completed · _ _ _) (eq_of_untouched htally), hle, h.room, hcodes, hmoreOutput,
    hall, hready, hdone, congrArg (· + BitVec.ofNat 32 r.c) (congrArg Books.totalIn h.books),
    congrArg (· + BitVec.ofNat 32 r.w) (congrArg Books.totalOut h.books), congrArg Books.input h.books,
    congrArg Books.adler h.books, h.crc, h.outside⟩

end Sys2Proof.Proofs
end

section
/-! SUPPORT. DEC_INIT: the window it accepts and the stream it opens (46_decoder.md R440, R441). -/

namespace Sys2Proof.Proofs

open Sys2Proof.Machine Sys2Proof.Claims

/-- The rule's test of a nonzero power of two is right. -/
theorem powerOfTwo_iff (ws : Word) : powerOfTwo ws = true ↔ ∃ e < 32, ws.toNat = 2 ^ e := by
  have hpos : ws = 0#32 ↔ ws.toNat = 0 := by simp [← BitVec.toNat_inj]
  obtain hzero | hne := eq_or_ne ws.toNat 0
  · refine iff_of_false (by simp [powerOfTwo, hpos.mpr hzero]) ?_
    rintro ⟨e, -, he⟩
    exact (Nat.two_pow_pos e).ne' (he.symm.trans hzero)
  · have hpred : (ws - 1#32).toNat = ws.toNat - 1 :=
      BitVec.toNat_sub_of_le (BitVec.le_def.mpr (Nat.one_le_iff_ne_zero.mpr hne))
    have htest : powerOfTwo ws = true ↔ ws.toNat &&& ws.toNat - 1 = 0 := by
      simp [powerOfTwo, hpos, hne, ← BitVec.toNat_inj, hpred]
    rw [htest, Nat.and_sub_one_eq_zero_iff_isPowerOfTwo hne]
    refine ⟨fun ⟨e, he⟩ => ⟨e, (Nat.pow_lt_pow_iff_right (by decide)).mp (he ▸ ws.isLt), he⟩, fun ⟨e, _, he⟩ => ⟨e, he⟩⟩

/-- A window that WRAP mode accepts; the other modes accept every window. -/
def WindowFits (om : OMode) (ws : Word) : Prop := om = .wrap → ∃ e < 32, ws.toNat = 2 ^ e

theorem checkWindow_of_fits {om : OMode} {ws : Word} (h : WindowFits om ws) (wb : Word) (s : State) :
    checkWindow om wb ws s = checkRange wb.toNat ws.toNat s := by
  have hgood : (om == .wrap && !powerOfTwo ws) = false := by
    cases om with
    | stream => rfl
    | oneshot => rfl
    | wrap => simpa using (powerOfTwo_iff ws).mpr (h rfl)
  rw [checkWindow, hgood]
  rfl

theorem checkWindow_badWindow {ws : Word} (h : ¬ ∃ e < 32, ws.toNat = 2 ^ e) (wb : Word) (s : State) :
    checkWindow .wrap wb ws s = (Cause.badWindow.raise ws.toNat : Cmd Unit) s := by
  have hbad : (OMode.wrap == .wrap && !powerOfTwo ws) = true := by simpa using (powerOfTwo_iff ws).not.mpr h
  rw [checkWindow, hbad]
  exact bind_of_raise (deny_true _ _ s)

/-- DEC_INIT in a mode with a host window. -/
theorem exec_decInit_window {om : Nat} {mode : OMode} (hom : om = 1 ∧ mode = .oneshot ∨ om = 2 ∧ mode = .wrap)
    (zlib crcTap : Bool) (s : State) : exec (.decInit zlib om crcTap) s = runCmd (do
      checkWindow mode s.args.a2 s.args.a3
      modify (State.setDec · (Dec.opened zlib mode crcTap s.args.a2 s.args.a3))
      finish .ok 0 0) s := by
  obtain ⟨rfl, rfl⟩ | ⟨rfl, rfl⟩ := hom
  · rfl
  · rfl

section
variable {om : Nat} {mode : OMode} (hom : om = 1 ∧ mode = .oneshot ∨ om = 2 ∧ mode = .wrap) {s : State}
  (hfits : WindowFits mode s.args.a3) (zlib crcTap : Bool)
include hom hfits

theorem exec_decInit_nullBuf (hsize : 0 < s.args.a3.toNat) (hbase : s.args.a2 = 0#32) :
    exec (.decInit zlib om crcTap) s = .next (raised s 0x11#8 14#8 0#32) := by
  have hcheck := (checkWindow_of_fits hfits s.args.a2 s).trans (checkRange_nullBuf s hsize (congrArg BitVec.toNat hbase))
  rw [exec_decInit_window hom]
  exact runCmd_of_raise (bind_of_raise hcheck)

theorem exec_decInit_range (hbase : s.args.a2 ≠ 0#32) (hend : 2 ^ 32 < s.args.a2.toNat + s.args.a3.toNat) :
    exec (.decInit zlib om crcTap) s = .next (raised s 0x11#8 3#8 s.args.a2) := by
  have hne : s.args.a2.toNat ≠ 0 := fun h => hbase (BitVec.eq_of_toNat_eq h)
  have hcheck := (checkWindow_of_fits hfits s.args.a2 s).trans (checkRange_range s (fun _ => hne) hend)
  rw [exec_decInit_window hom, runCmd_of_raise (bind_of_raise hcheck), ofNat_toNat_word]
  rfl

theorem exec_decInit_opens (hbase : 0 < s.args.a3.toNat → s.args.a2 ≠ 0#32)
    (hend : s.args.a2.toNat + s.args.a3.toNat ≤ 2 ^ 32) : exec (.decInit zlib om crcTap) s =
      .next (completed (s.setDec (Dec.opened zlib mode crcTap s.args.a2 s.args.a3)) 0x00#8 0#32 0#32) := by
  have hne : 0 < s.args.a3.toNat → s.args.a2.toNat ≠ 0 := fun h h0 => hbase h (BitVec.eq_of_toNat_eq h0)
  have hcheck := (checkWindow_of_fits hfits s.args.a2 s).trans (checkRange_ok s hne hend)
  rw [exec_decInit_window hom, runCmd_congr (bind_ok hcheck), runCmd_modify_finish]

end

/-- Settles O46: the checks in their order, mode by mode. -/
theorem decInitOpensTheStream : Obligations.DecInitOpensTheStream := by
  intro s zlib crcTap om
  refine ⟨?_, ?_, ?_, ?_⟩
  · rintro rfl
    exact runCmd_of_raise rfl
  · rintro rfl hbad
    rw [exec_decInit_window (.inr ⟨rfl, rfl⟩), runCmd_of_raise (bind_of_raise (checkWindow_badWindow hbad _ s)), ofNat_toNat_word]
    rfl
  · rintro (rfl | ⟨rfl, hpower⟩)
    · have hfits : WindowFits .oneshot s.args.a3 := nofun
      exact ⟨exec_decInit_nullBuf (.inl ⟨rfl, rfl⟩) hfits zlib crcTap, exec_decInit_range (.inl ⟨rfl, rfl⟩) hfits zlib crcTap⟩
    · have hfits : WindowFits .wrap s.args.a3 := fun _ => hpower
      exact ⟨exec_decInit_nullBuf (.inr ⟨rfl, rfl⟩) hfits zlib crcTap, exec_decInit_range (.inr ⟨rfl, rfl⟩) hfits zlib crcTap⟩
  · rintro mode wb ws (⟨rfl, rfl, rfl, rfl⟩ | ⟨rfl, rfl, rfl, rfl⟩ | ⟨rfl, rfl, rfl, rfl, hpower⟩) hrange
    · exact runCmd_modify_finish (State.setDec · (Dec.opened zlib .stream crcTap 0#32 0x8000#32)) 0 0 s
    · obtain ⟨hbase, hend⟩ := hrange.resolve_left (by decide)
      exact exec_decInit_opens (.inl ⟨rfl, rfl⟩) nofun zlib crcTap hbase hend
    · obtain ⟨hbase, hend⟩ := hrange.resolve_left (by decide)
      exact exec_decInit_opens (.inr ⟨rfl, rfl⟩) (fun _ => hpower) zlib crcTap hbase hend

end Sys2Proof.Proofs
end

section
/-! SUPPORT. DEC_RUN: its end, and the calls without an open stream (46_decoder.md R445, R446, R448). -/

namespace Sys2Proof.Proofs

open Sys2Proof.Machine Sys2Proof.Claims

/-- The completion of DEC_RUN's pseudocode that ends at all (log 11). -/
theorem exec_decRun_of_finish {s t : State} {f : Finish} (h : decRun s s = .ok (some f) t) (hf : isError f.code.toByte = false) :
    exec .decRun s = .next (completed t f.code.toByte f.r0 f.r1) := by
  rw [exec, execDecRun, h]
  dsimp only
  rw [complete_of_no_error hf]

theorem exec_decRun_of_raise {s t : State} {e : Raise} (h : decRun s s = .error e t) (he : isError e.code = true) :
    exec .decRun s = .next (failedWith t e.code e.cause e.info e.r0 e.r1) := by
  rw [exec, execDecRun, h]
  dsimp only
  rw [complete_of_error he]

/-- Settles O47: each of the three states ends the call before its checks. -/
theorem decRunWithoutAnOpenStream : Obligations.DecRunWithoutAnOpenStream := by
  refine fun s => ⟨fun hidle => ?_, fun hfailed hcode => ?_, fun hdone => ?_⟩
  · have hrun : decRun s s = (Cause.noStream.raise 0 : Cmd (Option Finish)) s := by rw [decRun, hidle]
    exact exec_decRun_of_raise hrun rfl
  · have hrun : decRun s s = .error { code := s.dec.fcode, cause := s.dec.fcause, info := s.dec.finfo, r0 := 0#32, r1 := 0#32 } s := by
      rw [decRun, hfailed]
      rfl
    exact exec_decRun_of_raise hrun (by simpa [isError] using hcode)
  · have hrun : decRun s s = .ok (some { code := .done, r0 := 0#32, r1 := 0#32 }) s := by
      rw [decRun, hdone]
      rfl
    exact exec_decRun_of_finish hrun rfl

end Sys2Proof.Proofs
end

section
/-! SUPPORT. The decoder's bit input: what pull(), need(k) and take(k) do (46_decoder.md R450, R452). -/

namespace Sys2Proof.Proofs

open Sys2Proof.Machine Sys2Proof.Claims

/-! One byte. -/

/-- A run after a pull. -/
def pulled (i : Nat) (r : Run) : Run :=
  { r with s := r.s.setDec (r.s.dec.feed (r.s.mem.read (i + r.c))), c := r.c + 1 }

theorem pull_of_byte {i n : Nat} {r : Run} (hc : r.c < n) (hok : r.s.memOk (i + r.c) .read = true) :
    pull i n r = .ok () (pulled i r) := by
  have hmore : doneIf (decide (n ≤ r.c)) .needsInput r = .ok () r := by
    rw [decide_eq_false (Nat.not_le.mpr hc)]
    rfl
  have hread : busRead (i + r.c) r = .ok (r.s.mem.read (i + r.c)) r := if_pos hok
  rw [pull, bind_ok (get_run r), bind_ok hmore, bind_ok hread]
  rfl

theorem pull_of_end {i n : Nat} {r : Run} (hc : n ≤ r.c) : pull i n r = .error (.done .needsInput) r := by
  have hstop : doneIf (decide (n ≤ r.c)) .needsInput r = .error (.done .needsInput) r := by
    rw [decide_eq_true hc]
    rfl
  rw [pull, bind_ok (get_run r)]
  exact bind_error hstop

/-! The bits left to take. -/

/-- The BitBuffer holds its bits and zeros above them. -/
def CleanBits (d : Dec) : Prop := d.bitbuf.toNat < 2 ^ d.nbits

/-- A byte that fits in the 32 bits of the BitBuffer loses none of its bits. -/
theorem feed_bitbuf_toNat {d : Dec} (hfit : d.nbits + 8 ≤ 32) (b : Byte) :
    (d.feed b).bitbuf.toNat = d.bitbuf.toNat ||| b.toNat <<< d.nbits := by
  have hbyte : b.toNat % 2 ^ 32 = b.toNat := Nat.mod_eq_of_lt (by have := b.isLt; omega)
  have hshift : b.toNat <<< d.nbits < 2 ^ 32 :=
    (Nat.shiftLeft_lt b.isLt).trans_le (Nat.pow_le_pow_right (by decide) (by omega))
  rw [Dec.feed, BitVec.toNat_or, BitVec.toNat_shiftLeft, BitVec.toNat_setWidth, hbyte, Nat.mod_eq_of_lt hshift]

theorem CleanBits.feed {d : Dec} (h : CleanBits d) (hfit : d.nbits + 8 ≤ 32) (b : Byte) : CleanBits (d.feed b) := by
  rw [CleanBits, feed_bitbuf_toNat hfit]
  have hbyte : b.toNat <<< d.nbits < 2 ^ (8 + d.nbits) := Nat.shiftLeft_lt b.isLt
  exact Nat.or_lt_two_pow (h.trans_le (Nat.pow_le_pow_right (by decide) (Nat.le_add_right _ _))) (by rwa [Nat.add_comm] at hbyte)

/-- A pull moves the next byte's bits behind the bits held. -/
theorem bitsLeftToTake_pulled {i n : Nat} {r : Run} (hc : r.c < n) (hclean : CleanBits r.s.dec) (hfit : r.s.dec.nbits + 8 ≤ 32) :
    bitsLeftToTake i n (pulled i r) = bitsLeftToTake i n r := by
  have hheld : bitsFirst (pulled i r).s.dec.bitbuf.toNat (pulled i r).s.dec.nbits =
      bitsFirst r.s.dec.bitbuf.toNat r.s.dec.nbits ++ bitsFirst (r.s.mem.read (i + r.c)).toNat 8 :=
    (congrArg (bitsFirst · _) (feed_bitbuf_toNat hfit _)).trans (bitsFirst_or_shiftLeft hclean _ 8)
  have hnext (k : Nat) : i + (r.c + 1) + k = i + r.c + (k + 1) := by omega
  rw [bitsLeftToTake, bitsLeftToTake, hheld, show n - r.c = n - (r.c + 1) + 1 by omega, List.range_succ_eq_map,
    List.flatMap_cons, List.flatMap_map, List.append_assoc]
  simp only [pulled, State.setDec_mem, hnext, Nat.add_zero]

/-! need(k). -/

/-- A run after pulls that have left the stream's bits as they were. -/
structure Fed (i n : Nat) (r r' : Run) : Prop where
  bits : bitsLeftToTake i n r' = bitsLeftToTake i n r
  clean : CleanBits r'.s.dec
  mem : r'.s.mem = r.s.mem
  written : r'.w = r.w
  phase : r'.s.dec.phase = r.s.dec.phase

theorem needUpTo_of_held {i n k : Nat} {r : Run} (h : k ≤ r.s.dec.nbits) (left : Nat) : needUpTo i n k left r = .ok () r := by
  have hheld : ¬ r.s.dec.nbits < k := Nat.not_lt.mpr h
  cases left with
  | zero => exact congrFun (if_neg hheld) r
  | succ left => exact congrFun (if_neg hheld) r

theorem needUpTo_of_short {i n k left : Nat} {r r' : Run} (h : r.s.dec.nbits < k) (hpull : pull i n r = .ok () r') :
    needUpTo i n k (left + 1) r = needUpTo i n k left r' :=
  (congrFun (if_pos h) r).trans (bind_ok hpull)

/-- need(k) pulls only what it needs: a width of at most 24 bits, or whole bytes, so that the BitBuffer has room. -/
theorem needUpTo_of_readable {i n k left : Nat} {r : Run} (hk : k ≤ 32) (hheld : r.s.dec.nbits ≤ k + 7)
    (hclean : CleanBits r.s.dec) (hroom : k ≤ 24 ∨ 8 ∣ r.s.dec.nbits) (hok : ∀ j < n, r.s.memOk (i + j) .read = true)
    (henough : k ≤ r.s.dec.nbits + 8 * (n - r.c)) (hleft : n - r.c ≤ left) :
    ∃ r', needUpTo i n k left r = .ok () r' ∧ Fed i n r r' ∧ k ≤ r'.s.dec.nbits ∧ r'.s.dec.nbits ≤ k + 7 := by
  induction left generalizing r with
  | zero =>
    have hhas : k ≤ r.s.dec.nbits := by omega
    exact ⟨r, needUpTo_of_held hhas 0, ⟨rfl, hclean, rfl, rfl, rfl⟩, hhas, hheld⟩
  | succ left ih =>
    obtain hhas | hshort := le_or_gt k r.s.dec.nbits
    · exact ⟨r, needUpTo_of_held hhas _, ⟨rfl, hclean, rfl, rfl, rfl⟩, hhas, hheld⟩
    · have hc : r.c < n := by omega
      have hfit : r.s.dec.nbits + 8 ≤ 32 := by omega
      have hnbits : (pulled i r).s.dec.nbits = r.s.dec.nbits + 8 := rfl
      have hcount : (pulled i r).c = r.c + 1 := rfl
      obtain ⟨r', hneed, ⟨hbits, hclean', hmem, hwritten, hphase⟩, hhas, hfew⟩ := ih (r := pulled i r) (by omega)
        (hclean.feed hfit _) (hroom.imp_right fun h => h.add (dvd_refl 8)) hok (by omega) (by omega)
      exact ⟨r', (needUpTo_of_short hshort (pull_of_byte hc (hok r.c hc))).trans hneed,
        ⟨hbits.trans (bitsLeftToTake_pulled hc hclean hfit), hclean', hmem, hwritten, hphase⟩, hhas, hfew⟩

/-! take(k). -/

/-- A run after its BitBuffer has lost its low `k` bits. -/
def dropped (k : Nat) (r : Run) : Run := { r with s := r.s.setDec (r.s.dec.drop k) }

theorem take_of_need {i n k : Nat} {r r' : Run} (h : need i n k r = .ok () r') :
    take i n k r = .ok (r'.s.dec.low k) (dropped k r') := bind_ok h

theorem bitsValue_bitsFirst (v k : Nat) : bitsValue (bitsFirst v k) = v % 2 ^ k := by
  induction k generalizing v with
  | zero => simp [bitsFirst, bitsValue, Nat.mod_one]
  | succ k ih =>
    have hfirst : bitsFirst v 1 = [v.testBit 0] := rfl
    have hbit : (v.testBit 0).toNat = v % 2 := by
      rw [Nat.testBit_zero]
      obtain h | h := Nat.mod_two_eq_zero_or_one v <;> simp [h]
    rw [Nat.add_comm k 1, bitsFirst_add, hfirst, List.singleton_append, bitsValue, ih, hbit, Nat.shiftRight_eq_div_pow, Nat.pow_add,
      Nat.mod_mul]

/-- The bits that a run whose BitBuffer holds at least `k` bits takes next, and those it leaves. -/
theorem bitsLeftToTake_dropped {i n k : Nat} {r : Run} (h : k ≤ r.s.dec.nbits) :
    bitsLeftToTake i n r = bitsFirst r.s.dec.bitbuf.toNat k ++ bitsLeftToTake i n (dropped k r) := by
  have hsplit : bitsFirst r.s.dec.bitbuf.toNat r.s.dec.nbits =
      bitsFirst r.s.dec.bitbuf.toNat k ++ bitsFirst (r.s.dec.bitbuf >>> k).toNat (r.s.dec.nbits - k) := by
    rw [BitVec.toNat_ushiftRight, ← bitsFirst_add, Nat.add_sub_cancel' h]
  rw [bitsLeftToTake, hsplit, List.append_assoc]
  rfl

/-- Settles O51: need(k) moves bits from the input to the BitBuffer, and its low `k` bits are the stream's next ones. -/
theorem takeReadsTheNextBits : Obligations.TakeReadsTheNextBits := by
  intro r i n k hk hheld hclean hroom _ ⟨_, _, hok⟩ henough
  have hroom : k ≤ 24 ∨ 8 ∣ r.s.dec.nbits := hroom.symm.imp_right fun h : r.s.dec.nbits = 0 => h ▸ dvd_zero 8
  obtain ⟨r', hneed, hfed, hhas, hfew⟩ :=
    needUpTo_of_readable hk (by omega) hclean hroom hok henough (left := n - r.c) le_rfl
  have hneed : need i n k r = .ok () r' := hneed
  have hlength : (bitsFirst r'.s.dec.bitbuf.toNat k).length = k := by simp [bitsFirst]
  have hleft : (dropped k r').s.dec.nbits ≤ 7 := Nat.sub_le_iff_le_add'.mpr hfew
  rw [← hfed.bits, bitsLeftToTake_dropped hhas, List.take_left' hlength, List.drop_left' hlength, bitsValue_bitsFirst]
  exact ⟨_, _, take_of_need hneed, rfl, rfl, hleft, hfed.mem, hfed.written, hfed.phase⟩

end Sys2Proof.Proofs
end

section
/-! SUPPORT. The decoder's output: the bytes a run has produced, where they lie, and what they do to the stream's position, history
and checksums (46_decoder.md R480, R486). -/

namespace Sys2Proof.Proofs

open Sys2Proof.Machine Sys2Proof.Claims

/-! Bytes laid down one after another, the `k`th at `place k`. -/

/-- Each byte that no later one overwrote is there. -/
def LaidAt (place : Nat → Nat) (after : Nat → Byte) (made : List Byte) : Prop :=
  ∀ k b, made[k]? = some b → (∀ j, k < j → j < made.length → place k ≠ place j) → after (place k) = b

/-- Where none of the `n` bytes lies, nothing has changed. -/
def KeptElsewhere (place : Nat → Nat) (before after : Nat → Byte) (n : Nat) : Prop :=
  ∀ x, (∀ k < n, place k ≠ x) → after x = before x

section
variable {place : Nat → Nat} {before after after' : Nat → Byte} {made : List Byte} {b : Byte}
  (hother : ∀ x, x ≠ place made.length → after' x = after x)
include hother

theorem LaidAt.append (h : LaidAt place after made) (hb : after' (place made.length) = b) : LaidAt place after' (made ++ [b]) := by
  intro k x hk hlast
  obtain hlt | hge := Nat.lt_or_ge k made.length
  · rw [List.getElem?_append_left hlt] at hk
    rw [hother _ (hlast _ hlt (by simp))]
    exact h k x hk fun j hkj hj => hlast j hkj (by simpa using Nat.lt_succ_of_lt hj)
  · rw [List.getElem?_append_right hge, List.getElem?_singleton] at hk
    obtain ⟨h0, rfl⟩ : k - made.length = 0 ∧ b = x := by simpa using hk
    obtain rfl : k = made.length := by omega
    exact hb

theorem KeptElsewhere.append (h : KeptElsewhere place before after made.length) :
    KeptElsewhere place before after' (made ++ [b]).length := by
  intro x hx
  simp only [List.length_append, List.length_singleton] at hx
  rw [hother x (hx _ (Nat.lt_succ_self _)).symm]
  exact h x fun k hk => hx k (Nat.lt_succ_of_lt hk)

end

/-- Two places of a ring less than one round apart are not the same. -/
theorem ring_ne {p j k size : Nat} (hjk : j < k) (hround : k < j + size) : (p + j) % size ≠ (p + k) % size := by
  intro h
  have hdvd : size ∣ k - j := by
    have := (Nat.modEq_iff_dvd' (Nat.add_le_add_left hjk.le p)).mp h
    rwa [Nat.add_sub_add_left] at this
  have := Nat.le_of_dvd (by omega) hdvd
  omega

/-! A stream's position. -/

/-- The stream's position is one of its window: it is where no more bytes would leave it. -/
def Placed (d : Dec) : Prop := positionAfter d 0 = d.opos

/-- Where the `k`th byte produced next enters DDICT (46_decoder.md R480). -/
def dictAt (d : Dec) (k : Nat) : Nat := (d.opos + k) % 32768

theorem outputAt_ne {d : Dec} {w j k : Nat} (hjk : j < k) (hk : k < w) (hkept : keptOutput d w j) (o : Nat) :
    outputAt d o j ≠ outputAt d o k := by
  unfold outputAt
  cases hmode : d.omode with
  | stream => dsimp only; omega
  | oneshot => dsimp only; omega
  | wrap =>
    have := hkept hmode
    exact fun h => ring_ne hjk (by omega) (Nat.add_left_cancel h)

theorem nextPos_of_positionAfter {d d₀ : Dec} {k : Nat} (hmode : d.omode = d₀.omode) (hsize : d.wsize = d₀.wsize)
    (hpos : d.opos = positionAfter d₀ k) : d.nextPos = positionAfter d₀ (k + 1) := by
  rw [Dec.nextPos, hmode, hpos, hsize]
  unfold positionAfter
  cases d₀.omode with
  | stream => exact Nat.mod_add_mod _ _ _
  | oneshot => rfl
  | wrap => exact Nat.mod_add_mod _ _ _

/-! The bytes produced. -/

/-- What an output byte and DEC_INIT decide of the decoder, and what the totals are (46_decoder.md R440, R480, R486). -/
def ledger (d : Dec) : Dec :=
  { Dec.opened d.zlib d.omode d.crcTap d.wbase d.wsize with
    opos := d.opos, hist := d.hist, adler := d.adler, totalIn := d.totalIn, totalOut := d.totalOut }

/-- From `s` to `t` an open stream has produced the bytes `made`, `o` being the address of the call's free output. -/
structure Produced (o : Nat) (s t : State) (made : List Byte) : Prop where
  ledger : ledger t.dec = { ledger s.dec with opos := t.dec.opos, hist := t.dec.hist, adler := t.dec.adler }
  opos : Placed s.dec → t.dec.opos = positionAfter s.dec made.length
  hist : s.dec.hist ≤ 32768 → t.dec.hist = min (s.dec.hist + made.length) 32768
  adler : t.dec.adler = adlerUpdate s.dec.adler made
  crc : t.crcAcc = if s.dec.crcTap then crcUpdate s.crcAcc made else s.crcAcc
  wf : s.mem.wf = true → t.mem.wf = true
  laid : s.mem.wf = true → LaidAt (outputAt s.dec o) t.mem.read made
  kept : KeptElsewhere (outputAt s.dec o) s.mem.read t.mem.read made.length
  dict : s.dec.omode = .stream → Placed s.dec → LaidAt (dictAt s.dec) (ddictRead t.ddict) made ∧
    KeptElsewhere (dictAt s.dec) (ddictRead s.ddict) (ddictRead t.ddict) made.length
  noDict : s.dec.omode ≠ .stream → t.ddict = s.ddict

theorem Produced.nothing (o : Nat) (s : State) : Produced o s s [] where
  ledger := rfl
  opos hplaced := hplaced.symm
  hist h := (Nat.min_eq_left h).symm
  adler := rfl
  crc := by rw [crcUpdate_nil, ite_self]
  wf h := h
  laid _ := nofun
  kept := fun _ _ => rfl
  dict _ _ := ⟨nofun, fun _ _ => rfl⟩
  noDict _ := rfl

/-- The bytes produced do not see the rest of the state. -/
theorem Produced.congr {o : Nat} {s t t' : State} {made : List Byte} (h : Produced o s t made)
    (hdec : Proofs.ledger t'.dec = Proofs.ledger t.dec) (hmem : t'.mem = t.mem) (hdict : t'.ddict = t.ddict)
    (hcrc : t'.crcAcc = t.crcAcc) : Produced o s t' made := by
  have hopos : t'.dec.opos = t.dec.opos := (congrArg Dec.opos hdec :)
  have hhist : t'.dec.hist = t.dec.hist := (congrArg Dec.hist hdec :)
  have hadler : t'.dec.adler = t.dec.adler := (congrArg Dec.adler hdec :)
  constructor
  · rw [hdec, hopos, hhist, hadler]; exact h.ledger
  · rw [hopos]; exact h.opos
  · rw [hhist]; exact h.hist
  · rw [hadler]; exact h.adler
  · rw [hcrc]; exact h.crc
  · rw [hmem]; exact h.wf
  · rw [hmem]; exact h.laid
  · rw [hmem]; exact h.kept
  · rw [hdict]; exact h.dict
  · rw [hdict]; exact h.noDict

section
variable {o : Nat} {s t : State} {made : List Byte} (h : Produced o s t made)
include h

theorem Produced.omode : t.dec.omode = s.dec.omode := (congrArg Dec.omode h.ledger :)

theorem Produced.crcTap : t.dec.crcTap = s.dec.crcTap := (congrArg Dec.crcTap h.ledger :)

theorem Produced.wbase : t.dec.wbase = s.dec.wbase := (congrArg Dec.wbase h.ledger :)

theorem Produced.wsize : t.dec.wsize = s.dec.wsize := (congrArg Dec.wsize h.ledger :)

theorem Produced.outRange (a m : Nat) : t.dec.outRange a m = s.dec.outRange a m := by
  rw [Dec.outRange, h.omode, h.wbase, h.wsize, Dec.outRange]

end

/-! One byte more. -/

/-- A run after one byte of output. -/
def outputByte (o : Nat) (r : Run) (b : Byte) : Run :=
  { r with s := (r.s.poke (r.outAddr o) b).decCount b, w := r.w + 1 }

theorem putByte_of_writable {o : Nat} {r : Run} (h : r.s.memOk (r.outAddr o) .write = true) (b : Byte) :
    putByte o b r = .ok () (outputByte o r b) := by
  have hwrite : busWrite (r.outAddr o) b r = .ok () { r with s := r.s.poke (r.outAddr o) b } := if_pos h
  rw [putByte, bind_ok (get_run r), bind_ok hwrite]
  rfl

theorem ddictRead_putCell_self (m : Memory) (a : Nat) (b : Byte) : ddictRead (putCell m a b) a = b := by
  rw [ddictRead, cellAt_putCell_self]
  rfl

theorem ddictRead_putCell_ne (m : Memory) {a x : Nat} (b : Byte) (h : x ≠ a) : ddictRead (putCell m a b) x = ddictRead m x := by
  rw [ddictRead, cellAt_putCell_ne m b h, ddictRead]

/-- The next byte goes where the bytes before it end. -/
theorem Produced.outAddr {o o₀ : Nat} {s : State} {r : Run} {made : List Byte} (h : Produced o₀ s r.s made)
    (hplaced : s.dec.omode ≠ .stream → Placed s.dec) (hw : o + r.w = o₀ + made.length) :
    r.outAddr o = outputAt s.dec o₀ made.length := by
  rw [Run.outAddr, outputAt, h.omode, h.wbase]
  have hpos := fun hmode => h.opos (hplaced hmode)
  unfold positionAfter at hpos
  cases hmode : s.dec.omode with
  | stream => exact hw
  | oneshot =>
    rw [hmode] at hpos
    dsimp only
    rw [hpos nofun, Nat.add_assoc]
  | wrap =>
    rw [hmode] at hpos
    dsimp only
    rw [hpos nofun]

theorem Produced.byte {o o₀ : Nat} {s : State} {r : Run} {made : List Byte} (h : Produced o₀ s r.s made)
    (haddr : r.outAddr o = outputAt s.dec o₀ made.length) (hspace : r.outAddr o < 2 ^ 32) (b : Byte) :
    Produced o₀ s (outputByte o r b).s (made ++ [b]) where
  ledger := congrArg (fun d : Dec => { d with
    opos := r.s.dec.nextPos, hist := min (r.s.dec.hist + 1) 32768, adler := adlerUpdate r.s.dec.adler [b] }) h.ledger
  opos hplaced := (nextPos_of_positionAfter h.omode h.wsize (h.opos hplaced)).trans (by rw [List.length_append]; rfl)
  hist hle := by
    have := h.hist hle
    change min (r.s.dec.hist + 1) 32768 = _
    rw [List.length_append, List.length_singleton]
    omega
  adler := (congrArg (adlerUpdate · [b]) h.adler).trans (adlerUpdate_append _ _ _)
  crc := by
    change (if r.s.dec.crcTap then crcUpdate r.s.crcAcc [b] else r.s.crcAcc) = _
    rw [h.crcTap, h.crc]
    split
    · exact crcUpdate_append _ _ _
    · rfl
  wf hwf := Memory.wf_write b (h.wf hwf) hspace
  laid hwf := (h.laid hwf).append (fun x hx => Memory.read_write_ne _ b (haddr ▸ hx))
    (haddr ▸ Memory.read_write_self _ b (h.wf hwf))
  kept := h.kept.append fun x hx => Memory.read_write_ne _ b (haddr ▸ hx)
  dict hmode hplaced := by
    obtain ⟨hlaid, hkept⟩ := h.dict hmode hplaced
    have hpos : r.s.dec.opos = dictAt s.dec made.length := (h.opos hplaced).trans (by rw [positionAfter, hmode]; rfl)
    have hdict : (outputByte o r b).s.ddict = putCell r.s.ddict (dictAt s.dec made.length) b := by
      rw [← hpos]
      exact if_pos (h.omode.trans hmode)
    rw [hdict]
    have hother : ∀ x, x ≠ dictAt s.dec made.length → _ := fun x hx => ddictRead_putCell_ne r.s.ddict b hx
    exact ⟨hlaid.append hother (ddictRead_putCell_self _ _ b), hkept.append hother⟩
  noDict hmode := (if_neg (h.omode.symm ▸ hmode)).trans (h.noDict hmode)

end Sys2Proof.Proofs
end

section
/-! SUPPORT. One step of the decoder's output: the room it needs, the address it writes and the history byte it copies
(46_decoder.md R479, R480). -/

namespace Sys2Proof.Proofs

open Sys2Proof.Machine Sys2Proof.Claims

/-! Room and addresses. -/

section
variable {r : Run} {m : Nat}

theorem getDec_run (r : Run) : getDec r = .ok r.s.dec r := rfl

theorem checkRoom_of_room (h : r.room m ≠ 0) : checkRoom m r = .ok () r := by
  rw [checkRoom, bind_ok (get_run r), beq_false_of_ne h]
  rfl

theorem checkRoom_of_full (h : r.room m = 0) : checkRoom m r = .error (.done .hasMoreOutput) r := by
  rw [checkRoom, bind_ok (get_run r), beq_iff_eq.mpr h]
  rfl

/-- In WRAP mode the stream's position lies in the ring. -/
def InRing (d : Dec) : Prop := d.omode = .wrap → d.opos < d.wsize.toNat

variable (hroom : r.room m ≠ 0) (hring : InRing r.s.dec)
include hroom hring

/-- With room left, the next byte goes into the call's output range. -/
theorem outAddr_in_range (o : Nat) :
    (r.s.dec.outRange o m).1 ≤ r.outAddr o ∧ r.outAddr o < (r.s.dec.outRange o m).1 + (r.s.dec.outRange o m).2 := by
  unfold Run.room at hroom
  unfold InRing at hring
  unfold Run.outAddr Dec.outRange
  cases hmode : r.s.dec.omode with
  | stream => rw [hmode] at hroom; dsimp only at hroom ⊢; omega
  | oneshot => rw [hmode] at hroom; dsimp only at hroom ⊢; omega
  | wrap => have := hring hmode; dsimp only; omega

theorem memOk_outAddr {o : Nat} (hout : ∀ k < (r.s.dec.outRange o m).2, r.s.memOk ((r.s.dec.outRange o m).1 + k) .write = true) :
    r.s.memOk (r.outAddr o) .write = true := by
  obtain ⟨hlow, hhigh⟩ := outAddr_in_range hroom hring o
  have := hout (r.outAddr o - (r.s.dec.outRange o m).1) (by omega)
  rwa [Nat.add_sub_cancel' hlow] at this

/-- The byte that hist_byte(D) finds. -/
def recalled (dist : Nat) (r : Run) : Byte :=
  match r.s.dec.omode with
  | .stream => ddictRead r.s.ddict (backIndex r.s.dec.opos dist Config.window)
  | .oneshot => r.s.mem.read (r.s.dec.wbase.toNat + r.s.dec.opos - dist)
  | .wrap => r.s.mem.read (r.s.dec.wbase.toNat + backIndex r.s.dec.opos dist r.s.dec.wsize.toNat)

/-- With room left, a distance within a ONESHOT output and a window that can be read, the history byte can be read. -/
theorem histByte_of_readable {dist : Nat} (hback : r.s.dec.omode = .oneshot → dist ≤ r.s.dec.opos)
    (hread : r.s.dec.omode ≠ .stream → ∀ k < r.s.dec.wsize.toNat, r.s.memOk (r.s.dec.wbase.toNat + k) .read = true) :
    histByte dist r = .ok (recalled dist r) r := by
  unfold Run.room at hroom
  unfold InRing at hring
  rw [histByte, bind_ok (get_run r), recalled]
  cases hmode : r.s.dec.omode with
  | stream => rfl
  | oneshot =>
    rw [hmode] at hroom hback hread
    have hdist := hback rfl
    have := hread nofun (r.s.dec.opos - dist) (by dsimp only at hroom; omega)
    exact if_pos (by rwa [← Nat.add_sub_assoc hdist] at this)
  | wrap =>
    rw [hmode] at hread
    exact if_pos (hread nofun _ (Nat.mod_lt _ (Nat.zero_lt_of_lt (hring hmode))))

end

/-! Looking back. -/

/-- The index that a ring's `k`th next byte finds `dist` back, its position counted from the start. -/
theorem backIndex_add {p k dist size : Nat} (h : dist ≤ size) : backIndex ((p + k) % size) dist size = (p + k + (size - dist)) % size := by
  rw [backIndex, Nat.mod_add_mod]
  obtain hlt | rfl := Nat.lt_or_eq_of_le h
  · rw [Nat.mod_eq_of_lt hlt]
  · rw [Nat.mod_self, Nat.sub_self, Nat.sub_zero, Nat.add_mod_right, Nat.add_zero]

section
variable {place : Nat → Nat} {before after : Nat → Byte} {made : List Byte} {dist a : Nat}
  (hlaid : LaidAt place after made) (hkept : KeptElsewhere place before after made.length)
include hlaid hkept

/-- What lies `dist` back is a byte from before, or one of those made: the address tells which. -/
theorem lookBack {old : Nat} (hdist : 1 ≤ dist) (hold : made.length < dist → a = old ∧ ∀ j < made.length, place j ≠ old)
    (hnew : dist ≤ made.length → a = place (made.length - dist) ∧
      ∀ j, made.length - dist < j → j < made.length → place (made.length - dist) ≠ place j) :
    after a = if made.length < dist then before old else made.getD (made.length - dist) 0#8 := by
  split
  · next hlt =>
    obtain ⟨rfl, hfree⟩ := hold hlt
    exact hkept _ hfree
  · next hge =>
    have hge := Nat.le_of_not_lt hge
    obtain ⟨rfl, hlast⟩ := hnew hge
    refine hlaid _ _ ?_ hlast
    have hlt : made.length - dist < made.length := by omega
    rw [List.getElem?_eq_getElem hlt, List.getD_eq_getElem _ _ hlt]

/-- In a ring, for a distance of at most one round. -/
theorem lookBack_ring {p size : Nat} {f : Nat → Nat} (hf : Function.Injective f) (hplace : ∀ j, place j = f ((p + j) % size))
    (hdist : 1 ≤ dist) (hsize : dist ≤ size) (ha : a = f ((p + made.length + (size - dist)) % size)) :
    after a = if made.length < dist then before (f ((p + size - (dist - made.length)) % size))
      else made.getD (made.length - dist) 0#8 := by
  refine lookBack hlaid hkept hdist (fun hlt => ⟨?_, fun j hj => ?_⟩) fun hge => ⟨?_, fun j hj hj' => ?_⟩
  · rw [ha]
    congr 2
    omega
  · rw [hplace, Nat.add_sub_assoc (by omega)]
    exact fun h => ring_ne (by omega) (by omega) (hf h)
  · rw [ha, hplace, show p + made.length + (size - dist) = p + (made.length - dist) + size by omega, Nat.add_mod_right]
  · rw [hplace, hplace]
    exact fun h => ring_ne hj (by omega) (hf h)

end

end Sys2Proof.Proofs
end

section
/-! SUPPORT. COPY repeats the output at its distance (46_decoder.md R479, R480, R486). -/

namespace Sys2Proof.Proofs

open Sys2Proof.Machine Sys2Proof.Claims

/-- Each of the bytes is the one `dist` back, in the history of `s` or among themselves. -/
def Repeats (s : State) (dist : Nat) (made : List Byte) : Prop :=
  ∀ k b, made[k]? = some b → b = if k < dist then historyByte s (dist - k) else made.getD (k - dist) 0#8

theorem Repeats.append {s : State} {dist : Nat} {made : List Byte} (h : Repeats s dist made) (hdist : 1 ≤ dist) {b : Byte}
    (hb : b = if made.length < dist then historyByte s (dist - made.length) else made.getD (made.length - dist) 0#8) :
    Repeats s dist (made ++ [b]) := by
  have hbelow : ∀ j < made.length, (made ++ [b]).getD j 0#8 = made.getD j 0#8 := fun j hj => List.getD_append _ _ _ _ hj
  intro k x hk
  obtain hlt | hge := Nat.lt_or_ge k made.length
  · rw [List.getElem?_append_left hlt] at hk
    rw [hbelow _ (by omega)]
    exact h k x hk
  · rw [List.getElem?_append_right hge, List.getElem?_singleton] at hk
    obtain ⟨h0, rfl⟩ : k - made.length = 0 ∧ b = x := by simpa using hk
    obtain rfl : k = made.length := by omega
    split
    · next hlt => rw [hb, if_pos hlt]
    · next hnew => rw [hbelow _ (by omega), hb, if_neg hnew]

/-- `s` with the output of `t`. -/
def withOutput (s t : State) : State :=
  { s with
    mem := t.mem, ddict := t.ddict, crcAcc := t.crcAcc
    dec := { s.dec with opos := t.dec.opos, hist := t.dec.hist, adler := t.dec.adler } }

/-- `s` with `n` bytes of its match left to copy. -/
def leftToCopy (n : Nat) (s : State) : State := s.setDec { s.dec with mlen := n }

/-- A run after one byte of COPY. -/
def copiedByte (o : Nat) (r : Run) (b : Byte) : Run :=
  { outputByte o r b with s := leftToCopy (r.s.dec.mlen - 1) (outputByte o r b).s }

/-- A run of COPY, begun in `r₀`, that has copied the bytes `made`. -/
structure Copied (o : Nat) (r₀ r : Run) (made : List Byte) : Prop where
  produced : Produced (o + r₀.w) r₀.s r.s made
  repeats : Repeats r₀.s r₀.s.dec.mdist made
  state : r.s = withOutput (leftToCopy (r₀.s.dec.mlen - made.length) r₀.s) r.s
  consumed : r.c = r₀.c
  written : r.w = r₀.w + made.length

theorem Copied.start (o : Nat) (r₀ : Run) : Copied o r₀ r₀ [] := ⟨.nothing _ _, nofun, rfl, rfl, rfl⟩

/-! What COPY is ready with, mode by mode. -/

section
variable {s : State} {o m w : Nat} (h : copyReady s o m w)
include h

theorem copyReady_stream (hmode : s.dec.omode = .stream) :
    s.dec.mdist ≤ 32768 ∧ s.dec.opos < 32768 ∧ w + s.dec.mlen ≤ m ∧ Writable s o m := by
  obtain ⟨-, -, h⟩ := h
  rwa [hmode] at h

theorem copyReady_oneshot (hmode : s.dec.omode = .oneshot) :
    s.dec.mdist ≤ s.dec.opos ∧ s.dec.opos + s.dec.mlen ≤ s.dec.wsize.toNat ∧
      Readable s s.dec.wbase.toNat s.dec.wsize.toNat ∧ Writable s s.dec.wbase.toNat s.dec.wsize.toNat := by
  obtain ⟨-, -, h⟩ := h
  rwa [hmode] at h

theorem copyReady_wrap (hmode : s.dec.omode = .wrap) :
    s.dec.mdist ≤ s.dec.wsize.toNat ∧ s.dec.opos < s.dec.wsize.toNat ∧ w + s.dec.mlen ≤ m ∧
      Readable s s.dec.wbase.toNat s.dec.wsize.toNat ∧ Writable s s.dec.wbase.toNat s.dec.wsize.toNat := by
  obtain ⟨-, -, h⟩ := h
  rwa [hmode] at h

theorem placed_of_copyReady : Placed s.dec := by
  unfold Placed positionAfter
  cases hmode : s.dec.omode with
  | stream => exact Nat.mod_eq_of_lt (copyReady_stream h hmode).2.1
  | oneshot => rfl
  | wrap => exact Nat.mod_eq_of_lt (copyReady_wrap h hmode).2.1

theorem writable_of_copyReady : ∀ k < (s.dec.outRange o m).2, s.memOk ((s.dec.outRange o m).1 + k) .write = true := by
  unfold Dec.outRange
  cases hmode : s.dec.omode with
  | stream =>
    obtain ⟨-, -, -, -, -, hok⟩ := copyReady_stream h hmode
    exact hok
  | oneshot =>
    obtain ⟨-, -, -, -, -, hok⟩ := copyReady_oneshot h hmode
    exact hok
  | wrap =>
    obtain ⟨-, -, -, -, -, -, hok⟩ := copyReady_wrap h hmode
    exact hok

theorem readable_of_copyReady (hmode : s.dec.omode ≠ .stream) :
    ∀ k < s.dec.wsize.toNat, s.memOk (s.dec.wbase.toNat + k) .read = true := by
  cases hmode' : s.dec.omode with
  | stream => exact absurd hmode' hmode
  | oneshot =>
    obtain ⟨-, -, ⟨-, -, hok⟩, -⟩ := copyReady_oneshot h hmode'
    exact hok
  | wrap =>
    obtain ⟨-, -, -, ⟨-, -, hok⟩, -⟩ := copyReady_wrap h hmode'
    exact hok

end

/-! The loop. -/

section
variable {o m : Nat} {r₀ r : Run} {made : List Byte} (h : Copied o r₀ r made)
include h

theorem Copied.mdist : r.s.dec.mdist = r₀.s.dec.mdist := (congrArg (fun s : State => s.dec.mdist) h.state :)

theorem Copied.mlen : r.s.dec.mlen = r₀.s.dec.mlen - made.length := (congrArg (fun s : State => s.dec.mlen) h.state :)

theorem Copied.memOk (a : Nat) (w : Access) : r.s.memOk a w = r₀.s.memOk a w := by
  rw [h.state]
  rfl

variable (hready : copyReady r₀.s o m r₀.w)
include hready

theorem Copied.inRing : InRing r.s.dec := by
  intro hmode
  rw [h.produced.omode] at hmode
  rw [h.produced.opos (placed_of_copyReady hready), h.produced.wsize, positionAfter, hmode]
  exact Nat.mod_lt _ (Nat.zero_lt_of_lt (copyReady_wrap hready hmode).2.1)

variable (hmore : made.length < r₀.s.dec.mlen)
include hmore

theorem Copied.room : r.room m ≠ 0 := by
  rw [Run.room, h.produced.omode, h.produced.opos (placed_of_copyReady hready), h.written, h.produced.wsize, positionAfter]
  cases hmode : r₀.s.dec.omode with
  | stream =>
    obtain ⟨-, -, hfit, -⟩ := copyReady_stream hready hmode
    dsimp only
    omega
  | oneshot =>
    obtain ⟨-, hfit, -⟩ := copyReady_oneshot hready hmode
    dsimp only
    omega
  | wrap =>
    obtain ⟨-, -, hfit, -⟩ := copyReady_wrap hready hmode
    dsimp only
    omega

theorem Copied.writable : r.s.memOk (r.outAddr o) .write = true := by
  refine memOk_outAddr (h.room hready hmore) (h.inRing hready) fun k hk => ?_
  rw [h.produced.outRange] at hk ⊢
  exact (h.memOk _ _).trans (writable_of_copyReady hready k hk)

/-- hist_byte(D) finds the byte that the statement names. -/
theorem Copied.histByte (hwf : r₀.s.mem.wf = true) : histByte r.s.dec.mdist r = .ok (recalled r.s.dec.mdist r) r ∧
    recalled r.s.dec.mdist r = if made.length < r₀.s.dec.mdist then historyByte r₀.s (r₀.s.dec.mdist - made.length)
      else made.getD (made.length - r₀.s.dec.mdist) 0#8 := by
  have hplaced := placed_of_copyReady hready
  have hpos := h.produced.opos hplaced
  have hdist : 1 ≤ r₀.s.dec.mdist := hready.1
  have hlaid := h.produced.laid hwf
  have hkept := h.produced.kept
  refine ⟨histByte_of_readable (h.room hready hmore) (h.inRing hready) (fun hmode => ?_) fun hmode k hk => ?_, ?_⟩
  · rw [h.produced.omode] at hmode
    obtain ⟨hback, -⟩ := copyReady_oneshot hready hmode
    rw [h.mdist, hpos, positionAfter, hmode]
    exact hback.trans (Nat.le_add_right _ _)
  · rw [h.produced.omode] at hmode
    rw [h.produced.wsize] at hk
    rw [h.memOk, h.produced.wbase]
    exact readable_of_copyReady hready hmode k hk
  · rw [recalled, h.mdist, h.produced.omode, hpos, h.produced.wbase, h.produced.wsize, historyByte, positionAfter]
    unfold outputAt at hlaid hkept
    cases hmode : r₀.s.dec.omode with
    | stream =>
      obtain ⟨hsize, -⟩ := copyReady_stream hready hmode
      obtain ⟨hlaid, hkept⟩ := h.produced.dict hmode hplaced
      exact lookBack_ring (f := id) hlaid hkept Function.injective_id (fun _ => rfl) hdist hsize (backIndex_add hsize)
    | oneshot =>
      obtain ⟨hback, -⟩ := copyReady_oneshot hready hmode
      rw [hmode] at hlaid hkept
      dsimp only at hlaid hkept ⊢
      refine lookBack hlaid hkept hdist (fun hlt => ⟨?_, fun j hj => ?_⟩) fun hge => ⟨?_, fun j hj hj' => ?_⟩
      all_goals omega
    | wrap =>
      obtain ⟨hsize, -⟩ := copyReady_wrap hready hmode
      rw [hmode] at hlaid hkept
      exact lookBack_ring (f := (r₀.s.dec.wbase.toNat + ·)) hlaid hkept (fun _ _ => Nat.add_left_cancel) (fun _ => rfl) hdist
        hsize (congrArg (r₀.s.dec.wbase.toNat + ·) (backIndex_add hsize))

/-- One round of the loop. -/
theorem Copied.next (hwf : r₀.s.mem.wf = true) : ∃ b, Copied o r₀ (copiedByte o r b) (made ++ [b]) ∧
    ∀ k, copyLoop o m (k + 1) r = copyLoop o m k (copiedByte o r b) := by
  obtain ⟨hhist, hbyte⟩ := h.histByte hready hmore hwf
  have hwritable := h.writable hready hmore
  have haddr := h.produced.outAddr (fun _ => placed_of_copyReady hready) (o := o) (by rw [h.written, Nat.add_assoc])
  refine ⟨recalled r.s.dec.mdist r, ⟨?_, h.repeats.append hready.1 hbyte, ?_, h.consumed, ?_⟩, fun k => ?_⟩
  · exact (h.produced.byte haddr (State.memOk_lt hwritable) _).congr rfl rfl rfl rfl
  · have hleft : r.s.dec.mlen - 1 = r₀.s.dec.mlen - (made ++ [recalled r.s.dec.mdist r]).length := by
      rw [h.mlen, List.length_append, List.length_singleton, Nat.sub_sub]
    rw [← hleft]
    exact (congrArg (fun s => withOutput (leftToCopy (r.s.dec.mlen - 1) s) (copiedByte o r (recalled r.s.dec.mdist r)).s) h.state :)
  · rw [List.length_append, List.length_singleton, ← Nat.add_assoc, ← h.written]
    rfl
  · rw [copyLoop, bind_ok (checkRoom_of_room (h.room hready hmore)), bind_ok (getDec_run r), bind_ok hhist,
      bind_ok (putByte_of_writable hwritable _)]
    rfl

end

/-- The loop copies what is left of the match. -/
theorem Copied.rest {o m k : Nat} {r₀ r : Run} {made : List Byte} (h : Copied o r₀ r made) (hready : copyReady r₀.s o m r₀.w)
    (hwf : r₀.s.mem.wf = true) (hk : made.length + k = r₀.s.dec.mlen) :
    ∃ r' made', copyLoop o m k r = .ok () r' ∧ Copied o r₀ r' made' ∧ made'.length = r₀.s.dec.mlen := by
  induction k generalizing r made with
  | zero => exact ⟨r, made, rfl, h, hk⟩
  | succ k ih =>
    obtain ⟨b, hnext, hloop⟩ := h.next hready (by omega) hwf
    obtain ⟨r', made', hrest, h', hlength⟩ := ih hnext (by rw [List.length_append, List.length_singleton]; omega)
    exact ⟨r', made', (hloop k).trans hrest, h', hlength⟩

/-- Settles O50: the loop copies byte by byte, each from the place its distance back, which the bytes after it have not reached. -/
theorem backReferenceRepeatsTheOutput : Obligations.BackReferenceRepeatsTheOutput := by
  intro r i n o m hwf _ hready
  obtain ⟨r', made, hloop, h, hlength⟩ := (Copied.start o r).rest hready hwf (Nat.zero_add _)
  have hplaced := placed_of_copyReady hready
  have hhist : r.s.dec.hist ≤ 32768 := hready.2.1
  have hwork : decWork i n o m .copy r = .ok () { r' with s := r'.s.setDec { r'.s.dec with phase := .dataSym } } := by
    rw [decWork, workCopy, bind_ok (getDec_run r), bind_ok hloop]
    rfl
  refine ⟨_, made, hwork, hlength, h.repeats, h.consumed, hlength ▸ h.written, ?_, fun k b hk hkept => ?_, ?_,
    fun hmode k b hk hlast => ?_, h.produced.noDict⟩
  · have hdone : r.s.dec.mlen - made.length = 0 := by omega
    rw [← hlength, ← h.produced.opos hplaced, ← h.produced.hist hhist, ← h.produced.adler, ← h.produced.crc]
    have hstate := h.state
    rw [hdone] at hstate
    exact congrArg (fun s : State => s.setDec { s.dec with phase := .dataSym }) hstate
  · exact h.produced.laid hwf k b hk fun j hkj hj => outputAt_ne hkj (hlength ▸ hj) hkept _
  · rw [← hlength]
    exact h.produced.kept
  · exact (h.produced.dict hmode hplaced).1 k b hk fun j hkj hj => ring_ne hkj (by omega)

end Sys2Proof.Proofs
end

section
/-! SUPPORT. DEC_RUN on an open stream: its checks, and its end (46_decoder.md R441, R445). -/

namespace Sys2Proof.Proofs

open Sys2Proof.Machine Sys2Proof.Claims

/-! What a call is ready with, mode by mode. -/

section
variable {s : State} {n o m : Nat} (h : decReady s n o m)
include h

theorem decReady_stream (hmode : s.dec.omode = .stream) : Writable s o m ∧ Apart s.args.a0.toNat n o m := by
  unfold decReady at h
  rwa [hmode] at h

theorem decReady_oneshot (hmode : s.dec.omode = .oneshot) : Writable s s.dec.wbase.toNat s.dec.wsize.toNat ∧
    Readable s s.dec.wbase.toNat s.dec.wsize.toNat ∧ Apart s.args.a0.toNat n s.dec.wbase.toNat s.dec.wsize.toNat ∧
    s.dec.opos ≤ s.dec.wsize.toNat ∧ s.dec.hist ≤ s.dec.opos ∧ (s.dec.phase = .copy → s.dec.mdist ≤ s.dec.opos) := by
  unfold decReady at h
  rwa [hmode] at h

theorem decReady_wrap (hmode : s.dec.omode = .wrap) : Writable s s.dec.wbase.toNat s.dec.wsize.toNat ∧
    Readable s s.dec.wbase.toNat s.dec.wsize.toNat ∧ Apart s.args.a0.toNat n s.dec.wbase.toNat s.dec.wsize.toNat ∧
    s.dec.opos < s.dec.wsize.toNat := by
  unfold decReady at h
  rwa [hmode] at h

/-- The output range is writable and apart from the input. -/
theorem outRange_of_decReady : Writable s (s.dec.outRange o m).1 (s.dec.outRange o m).2 ∧
    Apart s.args.a0.toNat n (s.dec.outRange o m).1 (s.dec.outRange o m).2 := by
  unfold Dec.outRange
  cases hmode : s.dec.omode with
  | stream => exact decReady_stream h hmode
  | oneshot =>
    obtain ⟨hout, -, hapart, -⟩ := decReady_oneshot h hmode
    exact ⟨hout, hapart⟩
  | wrap =>
    obtain ⟨hout, -, hapart, -⟩ := decReady_wrap h hmode
    exact ⟨hout, hapart⟩

theorem checkOutput_of_decReady : checkOutput s.dec o m s = .ok () s := by
  unfold checkOutput
  cases hmode : s.dec.omode with
  | stream =>
    obtain ⟨⟨hbase, hend, -⟩, -⟩ := decReady_stream h hmode
    exact checkRange_ok s hbase hend
  | oneshot => rfl
  | wrap => rfl

end

/-! The call. -/

theorem decRun_of_open {s : State} (h : openStream s.dec) :
    decRun s = decOpen s.dec s.args.a0.toNat s.args.a1.toNat s.args.a2.toNat s.args.a3.toNat := by
  obtain ⟨hidle, hdone, hfailed⟩ := h
  unfold decRun
  cases hphase : s.dec.phase with
  | idle => exact absurd hphase hidle
  | done => exact absurd hphase hdone
  | failed => exact absurd hphase hfailed
  | _ => rfl

/-- With its checks passed, the call is its loop. -/
theorem decRun_of_ready {s : State} (hopen : openStream s.dec) (hin : Readable s s.args.a0.toNat s.args.a1.toNat)
    (hready : decReady s s.args.a1.toNat s.args.a2.toNat s.args.a3.toNat) :
    decRun s s =
      decEnd (decBody s.args.a0.toNat s.args.a1.toNat s.args.a2.toNat s.args.a3.toNat { s := s, c := 0, w := 0 }) := by
  obtain ⟨hbase, hend, -⟩ := hin
  have hapart := (outRange_of_decReady hready).2
  have hno : [(s.args.a0.toNat, s.args.a1.toNat)].any (rangesOverlap (s.dec.outRange s.args.a2.toNat s.args.a3.toNat)) = false := by
    simp [rangesOverlap_of_apart hapart]
  rw [decRun_of_open hopen, decOpen, bind_ok (checkRange_ok s hbase hend), bind_ok (checkOutput_of_decReady hready)]
  exact bind_ok (checkOverlap_ok s hno)

/-- The loop ends with the work that leads to DONE. -/
theorem decBody_of_last_work {i n o m : Nat} {r r' : Run} (hwork : decWork i n o m r.s.dec.phase r = .ok () r')
    (hdone : r'.s.dec.phase = .done) : decBody i n o m r = .ok () r' := by
  rw [decBody, bind_ok (get_run r), decLoop, bind_ok (getDec_run r), bind_ok hwork, bind_ok (getDec_run r'), if_pos hdone]
  rfl

theorem decEnd_done {r : Run} (hdone : r.s.dec.phase = .done) :
    decEnd (.ok () r) = .ok (some (r.finished .done)) r.decTally := if_pos hdone

end Sys2Proof.Proofs
end

section
/-! SUPPORT. The bytes of a stored block (46_decoder.md R460, R480, R481, R486). -/

namespace Sys2Proof.Proofs

open Sys2Proof.Machine Sys2Proof.Claims

/-! A byte through an empty BitBuffer. -/

/-- The BitBuffer holds nothing. -/
def NoBits (d : Dec) : Prop := d.nbits = 0 ∧ d.bitbuf = 0#32

theorem NoBits.emptied {d : Dec} (h : NoBits d) : { d with bitbuf := 0#32, nbits := 0 } = d := by
  cases d
  obtain ⟨rfl, rfl⟩ := h
  rfl

theorem NoBits.drop_feed {d : Dec} (h : NoBits d) (b : Byte) : (d.feed b).drop 8 = d := by
  have ⟨hnbits, hbitbuf⟩ := h
  have hgone : b.setWidth 32 >>> 8 = 0#32 := by
    apply BitVec.eq_of_toNat_eq
    have := b.isLt
    simp [Nat.shiftRight_eq_div_pow]
    omega
  rw [Dec.feed, Dec.drop, hnbits, hbitbuf, BitVec.shiftLeft_zero, BitVec.zero_or, hgone]
  exact h.emptied

theorem NoBits.low_feed {d : Dec} (h : NoBits d) (b : Byte) : (d.feed b).low 8 = b.toNat := by
  obtain ⟨hnbits, hbitbuf⟩ := h
  have := b.isLt
  simp only [Dec.feed, Dec.low, hnbits, hbitbuf, BitVec.shiftLeft_zero, BitVec.zero_or, BitVec.toNat_setWidth]
  omega

theorem NoBits.drop_nbits {d : Dec} (h : NoBits d) : d.drop d.nbits = d := by
  rw [Dec.drop, h.1, h.2, BitVec.ushiftRight_zero]
  exact h.emptied

/-- take(8) takes the next input byte whole. -/
theorem take_byte {i n : Nat} {r : Run} (hempty : NoBits r.s.dec) (hc : r.c < n) (hok : r.s.memOk (i + r.c) .read = true) :
    take i n 8 r = .ok (r.s.mem.read (i + r.c)).toNat { r with c := r.c + 1 } := by
  have hfew : r.s.dec.nbits < 8 := by rw [hempty.1]; decide
  have hneed : need i n 8 r = .ok () (pulled i r) := by
    rw [need, bind_ok (get_run r), show n - r.c = n - r.c - 1 + 1 by omega, needUpTo_of_short hfew (pull_of_byte hc hok)]
    exact needUpTo_of_held (Nat.le_add_left _ _) _
  have hdropped : dropped 8 (pulled i r) = { r with c := r.c + 1 } := by
    have hdec := hempty.drop_feed (r.s.mem.read (i + r.c))
    rw [dropped, pulled]
    simp only [State.setDec_dec, hdec]
    rfl
  rw [take_of_need hneed, hdropped]
  exact congrArg (EStateM.Result.ok · _) (hempty.low_feed _)

/-! The loop. -/

/-- `s` with `n` bytes of its stored block left. -/
def leftOfBlock (n : Nat) (s : State) : State := s.setDec { s.dec with remaining := n }

/-- A run after one byte of a stored block. -/
def storedByte (o : Nat) (r : Run) (b : Byte) : Run :=
  { s := leftOfBlock (r.s.dec.remaining - 1) (outputByte o r b).s, c := r.c + 1, w := r.w + 1 }

/-- A run, begun in `s`, that has copied bytes of a stored block from the call's input to its output. -/
structure CopiedIn (s : State) (r : Run) : Prop where
  produced : Produced s.args.a2.toNat s r.s (bytesAt s s.args.a0.toNat r.c)
  state : r.s = withOutput (leftOfBlock (s.dec.remaining - r.c) s) r.s
  written : r.w = r.c

theorem CopiedIn.start (s : State) : CopiedIn s { s := s, c := 0, w := 0 } := ⟨.nothing _ _, rfl, rfl⟩

/-- A call that a stored block's bytes fit, on a stream in STREAM mode with an empty BitBuffer. -/
structure BlockFits (s : State) : Prop where
  stream : s.dec.omode = .stream
  wf : s.mem.wf = true
  empty : NoBits s.dec
  size : s.args.a1.toNat ≤ s.args.a3.toNat
  readable : Readable s s.args.a0.toNat s.args.a1.toNat
  writable : Writable s s.args.a2.toNat s.args.a3.toNat
  apart : Apart s.args.a0.toNat s.args.a1.toNat s.args.a2.toNat s.args.a3.toNat

section
variable {s : State} {r : Run} (h : CopiedIn s r)
include h

theorem CopiedIn.remaining : r.s.dec.remaining = s.dec.remaining - r.c :=
  (congrArg (fun s : State => s.dec.remaining) h.state :)

theorem CopiedIn.empty (hempty : NoBits s.dec) : NoBits r.s.dec :=
  ⟨(congrArg (fun s : State => s.dec.nbits) h.state :).trans hempty.1,
    (congrArg (fun s : State => s.dec.bitbuf) h.state :).trans hempty.2⟩

theorem CopiedIn.memOk (a : Nat) (w : Access) : r.s.memOk a w = s.memOk a w := by
  rw [h.state]
  rfl

variable (hfits : BlockFits s) (hmore : r.c < s.args.a1.toNat)
include hfits hmore

/-- The next input byte is still the one that memory held when the run began. -/
theorem CopiedIn.input : r.s.mem.read (s.args.a0.toNat + r.c) = s.mem.read (s.args.a0.toNat + r.c) := by
  refine h.produced.kept _ fun k hk => ?_
  have hapart := hfits.apart
  have hsize := hfits.size
  rw [length_bytesAt] at hk
  rw [Apart] at hapart
  rw [outputAt, hfits.stream]
  dsimp only
  omega

theorem CopiedIn.room : r.room s.args.a3.toNat ≠ 0 := by
  have hsize := hfits.size
  rw [Run.room, h.produced.omode, hfits.stream, h.written]
  dsimp only
  omega

theorem CopiedIn.memOk_outAddr : r.s.memOk (r.outAddr s.args.a2.toNat) .write = true := by
  obtain ⟨-, -, hok⟩ := hfits.writable
  have hsize := hfits.size
  rw [Run.outAddr, h.produced.omode, hfits.stream, h.memOk, h.written]
  exact hok _ (by omega)

/-- One round of the loop. -/
theorem CopiedIn.next : ∃ b, CopiedIn s (storedByte s.args.a2.toNat r b) ∧
    ∀ k, storedCopy s.args.a0.toNat s.args.a1.toNat s.args.a2.toNat s.args.a3.toNat (k + 1) r =
      storedCopy s.args.a0.toNat s.args.a1.toNat s.args.a2.toNat s.args.a3.toNat k (storedByte s.args.a2.toNat r b) := by
  obtain ⟨-, -, hin⟩ := hfits.readable
  have htake := take_byte (h.empty hfits.empty) hmore ((h.memOk _ _).trans (hin r.c hmore))
  rw [h.input hfits hmore] at htake
  have hwritable := h.memOk_outAddr hfits hmore
  have haddr := h.produced.outAddr (fun hmode => absurd hfits.stream hmode) (o := s.args.a2.toNat)
    (by rw [h.written, length_bytesAt])
  refine ⟨s.mem.read (s.args.a0.toNat + r.c), ⟨?_, ?_, congrArg (· + 1) h.written⟩, fun k => ?_⟩
  · exact bytesAt_succ_last s _ r.c ▸ (h.produced.byte haddr (State.memOk_lt hwritable) _).congr rfl rfl rfl rfl
  · have hleft : r.s.dec.remaining - 1 = s.dec.remaining - (r.c + 1) := by rw [h.remaining, Nat.sub_sub]
    change _ = withOutput (leftOfBlock (s.dec.remaining - (r.c + 1)) s) _
    rw [← hleft]
    exact (congrArg (fun s' => withOutput (leftOfBlock (r.s.dec.remaining - 1) s')
      (storedByte s.args.a2.toNat r (s.mem.read (s.args.a0.toNat + r.c))).s) h.state :)
  · rw [storedCopy, bind_ok (checkRoom_of_room (h.room hfits hmore)), bind_ok htake, BitVec.ofNat_toNat, BitVec.setWidth_eq]
    exact bind_ok (putByte_of_writable (r := { r with c := r.c + 1 }) hwritable _)

end

/-- The loop copies the rest of the input. -/
theorem CopiedIn.rest {s : State} {r : Run} {k : Nat} (h : CopiedIn s r) (hfits : BlockFits s) (hk : r.c + k = s.args.a1.toNat) :
    ∃ r', storedCopy s.args.a0.toNat s.args.a1.toNat s.args.a2.toNat s.args.a3.toNat k r = .ok () r' ∧ CopiedIn s r' ∧
      r'.c = s.args.a1.toNat := by
  induction k generalizing r with
  | zero => exact ⟨r, rfl, h, hk⟩
  | succ k ih =>
    obtain ⟨b, hnext, hloop⟩ := h.next hfits (by omega)
    have hcount : (storedByte s.args.a2.toNat r b).c = r.c + 1 := rfl
    obtain ⟨r', hrest, h', hc⟩ := ih hnext (by omega)
    exact ⟨r', (hloop k).trans hrest, h', hc⟩

/-! The end of the block. -/

/-- A run whose stream is DONE. -/
def streamDone (r : Run) : Run := { r with s := r.s.setDec { r.s.dec with phase := .done } }

/-- A final block of a bare stream leads to DONE, and an empty BitBuffer has no bits to discard. -/
theorem afterBlock_of_final {r : Run} (hfinal : r.s.dec.bfinal = true) (hbare : r.s.dec.zlib = false) (hempty : NoBits r.s.dec) :
    afterBlock r = .ok () (streamDone r) := by
  have hskip : skipBits r = .ok () r := by
    rw [skipBits, decModify, modify_run, hempty.drop_nbits]
    rfl
  rw [afterBlock, bind_ok (getDec_run r), if_pos hfinal, bind_ok hskip, hbare]
  rfl

section
variable {s : State} {r : Run} (h : CopiedIn s r) (hc : r.c = s.args.a1.toNat)
include h hc

theorem CopiedIn.finished : (streamDone r).finished .done = { code := .done, r0 := s.args.a1, r1 := s.args.a1 } := by
  have hw : r.w = s.args.a1.toNat := h.written.trans hc
  rw [Run.finished, streamDone, hc, hw, ofNat_toNat_word]

theorem CopiedIn.decTally (hall : s.dec.remaining = s.args.a1.toNat) : (streamDone r).decTally =
    withOutput (s.setDec { s.dec with
      phase := .done, remaining := 0
      totalIn := s.dec.totalIn + s.args.a1, totalOut := s.dec.totalOut + s.args.a1 }) r.s := by
  have hw : r.w = s.args.a1.toNat := h.written.trans hc
  have hstate := h.state
  rw [hc, hall, Nat.sub_self] at hstate
  rw [Run.decTally, streamDone, hc, hw, ofNat_toNat_word]
  exact (congrArg (fun s' : State => s'.setDec { s'.dec with
    phase := .done, totalIn := s'.dec.totalIn + s.args.a1, totalOut := s'.dec.totalOut + s.args.a1 }) hstate :)

end

theorem exec_decRun_of_block {s : State} (hfits : BlockFits s) (hphase : s.dec.phase = .storedCopy) (hfinal : s.dec.bfinal = true)
    (hbare : s.dec.zlib = false) (hall : s.dec.remaining = s.args.a1.toNat) : ∃ r, CopiedIn s r ∧ r.c = s.args.a1.toNat ∧
      exec .decRun s = .next (completed (streamDone r).decTally 0x01#8 s.args.a1 s.args.a1) := by
  have hopen : openStream s.dec := by simp [openStream, hphase]
  have hready : decReady s s.args.a1.toNat s.args.a2.toNat s.args.a3.toNat := by
    rw [decReady, hfits.stream]
    exact ⟨hfits.writable, hfits.apart⟩
  obtain ⟨r, hloop, h, hc⟩ := (CopiedIn.start s).rest hfits (Nat.zero_add _)
  have hafter := afterBlock_of_final ((congrArg (fun s : State => s.dec.bfinal) h.state :).trans hfinal)
    ((congrArg (fun s : State => s.dec.zlib) h.state :).trans hbare) (h.empty hfits.empty)
  have hwork : decWork s.args.a0.toNat s.args.a1.toNat s.args.a2.toNat s.args.a3.toNat s.dec.phase { s := s, c := 0, w := 0 } =
      .ok () (streamDone r) := by
    rw [hphase, decWork, workStoredCopy, bind_ok (getDec_run _)]
    dsimp only
    rw [hall, bind_ok hloop, hafter]
  have hrun := (decRun_of_ready hopen hfits.readable hready).trans
    ((congrArg decEnd (decBody_of_last_work hwork rfl)).trans (decEnd_done rfl))
  rw [h.finished hc] at hrun
  exact ⟨r, h, hc, exec_decRun_of_finish hrun rfl⟩

/-- Settles O49: the loop copies the bytes one by one through the empty BitBuffer, and the final block leads to DONE. -/
theorem storedBlockIsCopied : Obligations.StoredBlockIsCopied := by
  rintro s i n o bs hinv rfl rfl rfl hphase hmode hbare hfinal hnbits hbitbuf hall hsize hin hout hapart rfl
  obtain ⟨r, h, hc, hrun⟩ := exec_decRun_of_block ⟨hmode, hinv.mem, ⟨hnbits, hbitbuf⟩, hsize, hin, hout, hapart⟩ hphase hfinal
    hbare hall
  have hplaced : Placed s.dec := by
    rw [Placed, positionAfter, hmode]
    exact Nat.mod_eq_of_lt (hinv.opos hmode)
  have htally := h.decTally hc hall
  obtain ⟨-, hopos, hhist, hadler, hcrc, -, hlaid, hkept, hdict, -⟩ := hc ▸ h.produced
  have hplace : ∀ k, outputAt s.dec s.args.a2.toNat k = s.args.a2.toNat + k := fun k => by rw [outputAt, hmode]
  have hopos : r.s.dec.opos = (s.dec.opos + s.args.a1.toNat) % 32768 := by
    rw [hopos hplaced, positionAfter, hmode, length_bytesAt]
  have hhist : r.s.dec.hist = min (s.dec.hist + s.args.a1.toNat) 32768 := by rw [hhist hinv.hist, length_bytesAt]
  refine ⟨_, hrun, ⟨fun k b hk => ?_, fun x hx => ?_⟩, ?_, fun k b hk hround => ?_⟩
  · have hbyte := hlaid hinv.mem k b hk fun j hkj _ => by rw [hplace, hplace]; omega
    rw [hplace] at hbyte
    exact hbyte
  · refine hkept x fun k hk => ?_
    rw [hplace]
    omega
  · rw [htally, ← hadler, ← hcrc, ← hopos, ← hhist]
    rfl
  · refine (hdict hmode hplaced).1 k b hk fun j hkj hj => ring_ne hkj ?_
    rw [length_bytesAt] at hj
    omega

end Sys2Proof.Proofs
end

section
/-! SUPPORT. The account that a call of DEC_RUN on an open stream keeps, and the rules of its pseudocode that keep it
(46_decoder.md R445, R446, R450, R473, R480). -/

namespace Sys2Proof.Proofs

open Sys2Proof.Machine Sys2Proof.Claims

/-! The account. -/

/-- The state without what DEC_RUN writes: host memory, the decoder, DDICT, CRC_ACC and the slots 0 to 2. -/
def undecoded (s : State) : State :=
  { s with mem := [], dec := Dec.reset, ddict := [], crcAcc := 0#32, slots := { Slots.reset with s3 := s.slots.s3 } }

theorem eq_of_undecoded {s t : State} (h : undecoded t = undecoded s) :
    t = { s with mem := t.mem, dec := t.dec, ddict := t.ddict, crcAcc := t.crcAcc, slots := { t.slots with s3 := s.slots.s3 } } :=
  congrArg (fun u : State => { u with
    mem := t.mem, dec := t.dec, ddict := t.ddict, crcAcc := t.crcAcc, slots := { t.slots with s3 := u.slots.s3 } }) h

/-- A call of DEC_RUN in `s` whose buffers are ready: its input at `i` of length `n`, its output at `o` of length `m`. -/
structure Call (s : State) (i n o m : Nat) : Prop where
  input : i = s.args.a0.toNat ∧ n = s.args.a1.toNat
  output : o = s.args.a2.toNat ∧ m = s.args.a3.toNat
  readable : Readable s i n
  ready : decReady s n o m

/-- A run of DEC_RUN, begun in `s`, has accounted for the bytes it has produced, and its history does not pass its output. -/
structure DecProgress (s : State) (r : Run) : Prop where
  elsewhere : undecoded r.s = undecoded s
  consumed : r.c ≤ s.args.a1.toNat
  produced : ∃ made, made.length = r.w ∧ Produced s.args.a2.toNat s r.s made
  room : r.w ≤ decLimit s
  reach : r.s.dec.omode = .oneshot → r.s.dec.hist ≤ r.s.dec.opos

/-- How a run of DEC_RUN ends before DONE: in an open stream, for want of room or of input, or with a corrupt stream. -/
def Halted (s : State) (e : Stop) (r : Run) : Prop :=
  DecProgress s r ∧ match e with
    | .done code => openStream r.s.dec ∧ (code = .hasMoreOutput ∨ code = .needsInput ∧ r.c = s.args.a1.toNat)
    | .error c info => c.code = .corruptData ∧ info = r.s.dec.totalIn.toNat + r.c

/-- `m`, in a run of DEC_RUN begun in `s`, keeps the account and leads from `P` to `P'`, or ends the run. -/
abbrev Serves (s : State) {α : Type} (P : Run → Prop) (m : RunM α) (P' : Run → Prop) : Prop :=
  Triple (fun r => DecProgress s r ∧ P r) m (fun _ r => DecProgress s r ∧ P' r) (Halted s)

/-- The stream is in the work of the phase `p`; COPY in ONESHOT mode has its distance in the output. -/
def At (p : DecPhase) (r : Run) : Prop :=
  r.s.dec.phase = p ∧ (p = .copy → r.s.dec.omode = .oneshot → r.s.dec.mdist ≤ r.s.dec.opos)

/-- The stream is in the work of the phase `p`, and there is room for a byte. -/
def AtRoom (p : DecPhase) (m : Nat) (r : Run) : Prop := At p r ∧ r.room m ≠ 0

/-- Between two rounds of the loop: the stream is open or DONE. -/
def Between (r : Run) : Prop :=
  r.s.dec.phase.live ∧ At r.s.dec.phase r

/-- A phase that DEC_RUN works in. -/
def Works (p : DecPhase) : Prop := p ≠ .idle ∧ p ≠ .done ∧ p ≠ .failed

/-- A property of an open stream that taking input keeps. -/
structure Steady (P : Run → Prop) : Prop where
  isOpen : ∀ r, P r → openStream r.s.dec
  input : ∀ (r : Run) (b : Word) (k c : Nat), P r →
    P { r with s := r.s.setDec { r.s.dec with bitbuf := b, nbits := k }, c := c }

theorem Works.steady {p : DecPhase} (hp : Works p) : Steady (At p) :=
  ⟨fun _ hr => by rw [openStream, hr.1]; exact hp, fun _ _ _ _ hr => hr⟩

theorem Works.steadyRoom {p : DecPhase} (hp : Works p) (m : Nat) : Steady (AtRoom p m) :=
  ⟨fun _ hr => hp.steady.isOpen _ hr.1, fun _ _ _ _ hr => hr⟩

/-- The account does not see the rest of the run. -/
theorem DecProgress.congr {s : State} {r r' : Run} (h : DecProgress s r) (hw : r'.w = r.w)
    (hother : undecoded r'.s = undecoded r.s) (hdec : ledger r'.s.dec = ledger r.s.dec) (hmem : r'.s.mem = r.s.mem)
    (hdict : r'.s.ddict = r.s.ddict) (hcrc : r'.s.crcAcc = r.s.crcAcc) (hc : r'.c ≤ s.args.a1.toNat) : DecProgress s r' where
  elsewhere := hother.trans h.elsewhere
  consumed := hc
  produced := by
    obtain ⟨made, hlength, hmade⟩ := h.produced
    exact ⟨made, hlength.trans hw.symm, hmade.congr hdec hmem hdict hcrc⟩
  room := hw ▸ h.room
  reach := by
    have homode : r'.s.dec.omode = r.s.dec.omode := (congrArg Dec.omode hdec :)
    have hhist : r'.s.dec.hist = r.s.dec.hist := (congrArg Dec.hist hdec :)
    have hopos : r'.s.dec.opos = r.s.dec.opos := (congrArg Dec.opos hdec :)
    rw [homode, hhist, hopos]
    exact h.reach

theorem DecProgress.memOk {s : State} {r : Run} (h : DecProgress s r) (a : Nat) (w : Access) : r.s.memOk a w = s.memOk a w := by
  rw [eq_of_undecoded h.elsewhere]
  rfl

/-! Steps that the account does not see. -/

section
variable {s : State} {p : DecPhase} {P : Run → Prop} {β : Type} {Q : β → Run → Prop}

theorem serves_getDec {k : Dec → RunM β} (hk : ∀ d, Triple P (k d) Q (Halted s)) : Triple P (getDec >>= k) Q (Halted s) :=
  fun r hr => hk r.s.dec r hr

/-- A change of the decoder that neither the account nor the loop sees. -/
def Quiet (f : Dec → Dec) : Prop := ∀ d, ledger (f d) = ledger d ∧ (f d).phase = d.phase ∧ (f d).mdist = d.mdist

theorem serves_decModify {f : Dec → Dec} (hf : Quiet f := by exact fun _ => ⟨rfl, rfl, rfl⟩) :
    Serves s (At p) (decModify f) (At p) := by
  intro r ⟨hprogress, hphase, hcopy⟩
  obtain ⟨hledger, hsame, hmdist⟩ := hf r.s.dec
  have homode : (f r.s.dec).omode = r.s.dec.omode := (congrArg Dec.omode hledger :)
  have hopos : (f r.s.dec).opos = r.s.dec.opos := (congrArg Dec.opos hledger :)
  refine ⟨hprogress.congr rfl rfl hledger rfl rfl rfl hprogress.consumed, hsame.trans hphase, fun hp hmode => ?_⟩
  change (f r.s.dec).mdist ≤ (f r.s.dec).opos
  rw [hmdist, hopos]
  exact hcopy hp (homode.symm.trans hmode)

theorem serves_skipBits : Serves s (At p) skipBits (At p) := serves_decModify

theorem serves_decGo {q : DecPhase} (hlive : q.live := by simp [DecPhase.live]) (hq : q ≠ .copy := by nofun) :
    Serves s (At p) (decGo q) Between :=
  fun _ ⟨hprogress, _⟩ => ⟨hprogress.congr rfl rfl rfl rfl rfl rfl hprogress.consumed, hlive, rfl, fun h => absurd h hq⟩

theorem serves_decFail {c : Cause} (hc : c.code = .corruptData) :
    Triple (fun r => DecProgress s r ∧ P r) (decFail c : RunM β) Q (Halted s) :=
  fun _ ⟨hprogress, _⟩ => ⟨hprogress, hc, rfl⟩

theorem serves_failIf {bad : Bool} {c : Cause} {k : Unit → RunM β} (hc : c.code = .corruptData)
    (hk : bad = false → Triple (fun r => DecProgress s r ∧ P r) (k ()) Q (Halted s)) :
    Triple (fun r => DecProgress s r ∧ P r) (failIf bad c >>= k) Q (Halted s) := by
  cases bad
  · exact hk rfl
  · exact fun _ ⟨hprogress, _⟩ => ⟨hprogress, hc, rfl⟩

theorem serves_runSetSlot {k : Fin 4} (hk : k ≠ 3) (v : Slot) : Serves s (At p) (runSetSlot k v) (At p) := by
  intro r ⟨hprogress, hat⟩
  refine ⟨hprogress.congr rfl ?_ rfl rfl rfl rfl hprogress.consumed, hat⟩
  match k with
  | 0 => rfl
  | 1 => rfl
  | 2 => rfl
  | 3 => exact absurd rfl hk

theorem serves_buildSlot {k : Fin 4} (hk : k ≠ 3) (len : List Nat) {c : Cause} (hc : c.code = .corruptData) :
    Serves s (At p) (buildSlot k len c) (At p) := by
  refine .bind (serves_runSetSlot hk _) fun _ => ?_
  split
  · exact .pure fun _ hr => hr
  · exact serves_decFail hc

theorem serves_afterBlock : Serves s (At p) afterBlock Between := by
  refine serves_getDec fun d => ?_
  split
  · refine .bind serves_skipBits fun _ => ?_
    cases d.zlib
    · exact serves_decGo
    · exact serves_decGo
  · exact serves_decGo

end

/-! Input. -/

section
variable {s : State} {P : Run → Prop} (hP : Steady P)
include hP

theorem serves_decDrop (k : Nat) : Serves s P (decModify (Dec.drop · k)) P :=
  fun r ⟨hprogress, hr⟩ => ⟨hprogress.congr rfl rfl rfl rfl rfl rfl hprogress.consumed, hP.input r _ _ _ hr⟩

variable {i n o m : Nat} (hcall : Call s i n o m)
include hcall

theorem serves_pull : Serves s P (pull i n) P := by
  intro r ⟨hprogress, hr⟩
  obtain ⟨-, rfl⟩ := hcall.input
  obtain ⟨-, -, hok⟩ := hcall.readable
  obtain hc | hc := Nat.lt_or_ge r.c s.args.a1.toNat
  · rw [pull_of_byte hc ((hprogress.memOk _ _).trans (hok r.c hc))]
    exact ⟨hprogress.congr rfl rfl rfl rfl rfl rfl hc, hP.input r _ _ _ hr⟩
  · rw [pull_of_end hc]
    exact ⟨hprogress, hP.isOpen r hr, .inr ⟨rfl, Nat.le_antisymm hprogress.consumed hc⟩⟩

theorem serves_need (k : Nat) : Serves s P (need i n k) P := by
  have hloop : ∀ left, Serves s P (needUpTo i n k left) P := by
    intro left
    induction left with
    | zero =>
      refine serves_getDec fun d => ?_
      split
      · exact serves_pull hP hcall
      · exact .pure fun _ hr => hr
    | succ left ih =>
      refine serves_getDec fun d => ?_
      split
      · exact .bind (serves_pull hP hcall) fun _ => ih
      · exact .pure fun _ hr => hr
  exact fun r hr => hloop (n - r.c) r hr

theorem serves_take (k : Nat) : Serves s P (take i n k) P :=
  .bind (serves_need hP hcall k) fun _ => serves_getDec fun _ => .bind (serves_decDrop hP k) fun _ => .pure fun _ hr => hr

/-- A symbol whose bits are not all there is waited for until the input is all consumed. -/
theorem serves_symUpTo (ws : List CodeWord) (left : Nat) :
    Triple (fun r => (DecProgress s r ∧ P r) ∧ n - r.c ≤ left) (symUpTo i n ws left) (fun _ r => DecProgress s r ∧ P r) (Halted s) := by
  have htake : ∀ a l : Nat, Serves s P (decModify (Dec.drop · l) >>= fun _ => (pure a : RunM Nat)) P :=
    fun a l => .bind (serves_decDrop hP l) fun _ => .pure fun _ hr => hr
  have hfail : Serves s P (decFail .invalidCode : RunM Nat) P := serves_decFail rfl
  obtain ⟨-, hn⟩ := hcall.input
  induction left with
  | zero =>
    refine serves_getDec fun d r hr => ?_
    obtain ⟨hr, hend⟩ := hr
    cases decodeBits ws d.bitbuf.toNat d.nbits with
    | symbol a l => exact htake a l r hr
    | invalid => exact hfail r hr
    | needMore => exact ⟨hr.1, hP.isOpen r hr.2, .inr ⟨rfl, by have := hr.1.consumed; omega⟩⟩
  | succ left ih =>
    refine serves_getDec fun d r hr => ?_
    obtain ⟨hr, hleft⟩ := hr
    cases decodeBits ws d.bitbuf.toNat d.nbits with
    | symbol a l => exact htake a l r hr
    | invalid => exact hfail r hr
    | needMore =>
      have hpull := serves_pull hP hcall r hr
      dsimp only
      cases he : pull i n r with
      | ok u r' =>
        obtain ⟨-, hcount, -⟩ := pull_ok he
        rw [he] at hpull
        rw [bind_ok he]
        exact ih r' ⟨hpull, by omega⟩
      | error e r' =>
        rw [he] at hpull
        rw [bind_run, he]
        exact hpull

theorem serves_sym (t : Fin 4) : Serves s P (sym i n t) P :=
  fun r hr => serves_symUpTo hP hcall _ (n - r.c) r ⟨hr, le_rfl⟩

end

end Sys2Proof.Proofs
end

section
/-! SUPPORT. The output of a call of DEC_RUN on an open stream (46_decoder.md R478 to R480, R486). -/

namespace Sys2Proof.Proofs

open Sys2Proof.Machine Sys2Proof.Claims

/-! What a ready call has. -/

section
variable {s : State} {i n o m : Nat} (hcall : Call s i n o m)
include hcall

theorem Call.placed (hmode : s.dec.omode ≠ .stream) : Placed s.dec := by
  unfold Placed positionAfter
  cases hmode' : s.dec.omode with
  | stream => exact absurd hmode' hmode
  | oneshot => rfl
  | wrap =>
    obtain ⟨-, -, -, hpos⟩ := decReady_wrap hcall.ready hmode'
    exact Nat.mod_eq_of_lt hpos

theorem Call.readWindow (hmode : s.dec.omode ≠ .stream) :
    ∀ k < s.dec.wsize.toNat, s.memOk (s.dec.wbase.toNat + k) .read = true := by
  cases hmode' : s.dec.omode with
  | stream => exact absurd hmode' hmode
  | oneshot =>
    obtain ⟨-, ⟨-, -, hok⟩, -⟩ := decReady_oneshot hcall.ready hmode'
    exact hok
  | wrap =>
    obtain ⟨-, ⟨-, -, hok⟩, -⟩ := decReady_wrap hcall.ready hmode'
    exact hok

variable {r : Run} (h : DecProgress s r)
include h

theorem Call.inRing : InRing r.s.dec := by
  intro hmode
  obtain ⟨made, -, hmade⟩ := h.produced
  rw [hmade.omode] at hmode
  obtain ⟨-, -, -, hpos⟩ := decReady_wrap hcall.ready hmode
  rw [hmade.opos (hcall.placed (by rw [hmode]; nofun)), hmade.wsize, positionAfter, hmode]
  exact Nat.mod_lt _ (Nat.zero_lt_of_lt hpos)

variable (hroom : r.room m ≠ 0)
include hroom

theorem Call.memOk_outAddr : r.s.memOk (r.outAddr o) .write = true := by
  obtain ⟨made, -, hmade⟩ := h.produced
  obtain ⟨⟨-, -, hok⟩, -⟩ := outRange_of_decReady hcall.ready
  refine Proofs.memOk_outAddr hroom (hcall.inRing h) fun k hk => ?_
  rw [hmade.outRange] at hk ⊢
  exact (h.memOk _ _).trans (hok k hk)

/-- The call's room leaves one byte more. -/
theorem Call.limit : r.w + 1 ≤ decLimit s := by
  obtain ⟨made, hlength, hmade⟩ := h.produced
  obtain ⟨-, rfl⟩ := hcall.output
  have hpos := fun hmode => hmade.opos (hcall.placed hmode)
  rw [Run.room, hmade.omode, hmade.wsize] at hroom
  unfold positionAfter at hpos
  unfold decLimit
  cases hmode : s.dec.omode with
  | stream => rw [hmode] at hroom; dsimp only at hroom ⊢; omega
  | oneshot =>
    rw [hmode] at hroom hpos
    have := hpos nofun
    dsimp only at hroom this ⊢
    omega
  | wrap => rw [hmode] at hroom; dsimp only at hroom ⊢; omega

theorem Call.outputByte (b : Byte) : DecProgress s (outputByte o r b) where
  elsewhere := h.elsewhere
  consumed := h.consumed
  produced := by
    obtain ⟨made, hlength, hmade⟩ := h.produced
    obtain ⟨ho, -⟩ := hcall.output
    have haddr := hmade.outAddr hcall.placed (o := o) (by rw [ho, hlength])
    exact ⟨made ++ [b], by rw [List.length_append, hlength]; rfl,
      hmade.byte haddr (State.memOk_lt (hcall.memOk_outAddr h hroom)) b⟩
  room := hcall.limit h hroom
  reach hmode := by
    have hnext : r.s.dec.nextPos = r.s.dec.opos + 1 := by rw [Dec.nextPos, show r.s.dec.omode = .oneshot from hmode]
    have := h.reach hmode
    change min (r.s.dec.hist + 1) 32768 ≤ r.s.dec.nextPos
    omega

end

/-! The rules. -/

section
variable {s : State} {i n o m : Nat} {p : DecPhase}

theorem serves_checkRoom (hp : Works p) : Serves s (At p) (checkRoom m) (AtRoom p m) := by
  intro r ⟨hprogress, hat⟩
  by_cases hroom : r.room m = 0
  · rw [checkRoom_of_full hroom]
    exact ⟨hprogress, hp.steady.isOpen r hat, .inl rfl⟩
  · rw [checkRoom_of_room hroom]
    exact ⟨hprogress, hat, hroom⟩

variable (hcall : Call s i n o m)
include hcall

theorem serves_putByte (b : Byte) : Serves s (AtRoom p m) (putByte o b) (At p) := by
  intro r ⟨hprogress, ⟨hphase, hcopy⟩, hroom⟩
  rw [putByte_of_writable (hcall.memOk_outAddr hprogress hroom)]
  refine ⟨hcall.outputByte hprogress hroom b, hphase, fun hp hmode => ?_⟩
  have hnext : r.s.dec.nextPos = r.s.dec.opos + 1 := by rw [Dec.nextPos, show r.s.dec.omode = .oneshot from hmode]
  exact (hcopy hp hmode).trans ((Nat.le_succ _).trans_eq hnext.symm)

/-- COPY's history byte. -/
theorem serves_histByte {β : Type} {Q : β → Run → Prop} {k : Byte → RunM β}
    (hk : ∀ b, Triple (fun r => DecProgress s r ∧ AtRoom .copy m r) (k b) Q (Halted s)) :
    Triple (fun r => DecProgress s r ∧ AtRoom .copy m r) (getDec >>= fun d => histByte d.mdist >>= k) Q (Halted s) := by
  intro r ⟨hprogress, hat, hroom⟩
  obtain ⟨made, -, hmade⟩ := hprogress.produced
  have hread := histByte_of_readable hroom (hcall.inRing hprogress) (hat.2 rfl) fun hmode a ha => by
    rw [hmade.omode] at hmode
    rw [hmade.wsize] at ha
    rw [hprogress.memOk, hmade.wbase]
    exact hcall.readWindow hmode a ha
  rw [bind_ok (getDec_run r), bind_ok hread]
  exact hk _ r ⟨hprogress, hat, hroom⟩

omit hcall in
/-- A distance that passes the check of DIST_EXTRA lies in a ONESHOT output (R478). -/
theorem serves_distance (dist : Dec → Nat) : Serves s (At .distExtra) (do
    decModify (fun d => { d with mdist := dist d })
    let d ← getDec
    failIf (decide (d.reach < d.mdist)) .distTooFar
    decGo .copy) Between := by
  intro r ⟨hprogress, _⟩
  rw [decModify, bind_ok (modify_run _ r), bind_ok (getDec_run _)]
  refine (serves_failIf (P := (· = { r with s := r.s.setDec { r.s.dec with mdist := dist r.s.dec } })) rfl fun hfar => ?_) _
    ⟨hprogress.congr rfl rfl rfl rfl rfl rfl hprogress.consumed, rfl⟩
  rintro _ ⟨hprogress, rfl⟩
  have hnear := Nat.le_of_not_lt (of_decide_eq_false hfar)
  refine ⟨hprogress.congr rfl rfl rfl rfl rfl rfl hprogress.consumed, by simp [DecPhase.live], rfl, fun _ hmode => ?_⟩
  have hmode : r.s.dec.omode = .oneshot := hmode
  rw [Dec.reach, State.setDec_dec, hmode] at hnear
  exact hnear.trans (hprogress.reach hmode)

end

end Sys2Proof.Proofs
end

section
/-! SUPPORT. The work of each of the decoder's states keeps the account of DEC_RUN (46_decoder.md R455 to R483). -/

namespace Sys2Proof.Proofs

open Sys2Proof.Machine Sys2Proof.Claims

section
variable {s : State} {i n o m : Nat} (hcall : Call s i n o m)
include hcall

/-- Input in the work of a phase. -/
theorem serves_takeAt {p : DecPhase} (k : Nat) (hp : Works p := by simp [Works]) : Serves s (At p) (take i n k) (At p) :=
  serves_take hp.steady hcall k

theorem serves_symAt {p : DecPhase} (t : Fin 4) (hp : Works p := by simp [Works]) : Serves s (At p) (sym i n t) (At p) :=
  serves_sym hp.steady hcall t

theorem serves_workZhdr : Serves s (At .zhdr) (workZhdr i n) Between :=
  .bind (serves_takeAt hcall 16) fun _ => serves_getDec fun _ => serves_failIf rfl fun _ => serves_failIf rfl fun _ =>
    serves_decGo

theorem serves_workBhdr : Serves s (At .bhdr) (workBhdr i n) Between := by
  refine .bind (serves_takeAt hcall 3) fun h => .bind serves_decModify fun _ => ?_
  split
  · exact .bind serves_skipBits fun _ => serves_decGo
  · split
    · exact .bind (serves_runSetSlot (by decide) _) fun _ => .bind (serves_runSetSlot (by decide) _) fun _ =>
        serves_decGo
    · split
      · exact serves_decGo
      · exact serves_decFail rfl

theorem serves_workStoredLen : Serves s (At .storedLen) (workStoredLen i n) Between :=
  .bind (serves_takeAt hcall 32) fun _ => serves_failIf rfl fun _ => .bind serves_decModify fun _ =>
    serves_decGo

theorem serves_storedCopy (k : Nat) : Serves s (At .storedCopy) (storedCopy i n o m k) (At .storedCopy) := by
  have hp : Works .storedCopy := by simp [Works]
  induction k with
  | zero => exact .pure fun _ hr => hr
  | succ k ih =>
    exact .bind (serves_checkRoom hp) fun _ => .bind (serves_take (hp.steadyRoom m) hcall 8) fun _ =>
      .bind (serves_putByte hcall _) fun _ => .bind serves_decModify fun _ => ih

theorem serves_workStoredCopy : Serves s (At .storedCopy) (workStoredCopy i n o m) Between :=
  serves_getDec fun _ => .bind (serves_storedCopy hcall _) fun _ => serves_afterBlock

theorem serves_workDynCounts : Serves s (At .dynCounts) (workDynCounts i n) Between :=
  .bind (serves_takeAt hcall 14) fun _ => .bind serves_decModify fun _ => serves_failIf rfl fun _ =>
    .bind serves_decModify fun _ => serves_decGo

theorem serves_clenLoop (k : Nat) : Serves s (At .dynClen) (clenLoop i n k) (At .dynClen) := by
  induction k with
  | zero => exact .pure fun _ hr => hr
  | succ k ih =>
    exact .bind (serves_takeAt hcall 3) fun _ => .bind serves_decModify fun _ => ih

theorem serves_workDynClen : Serves s (At .dynClen) (workDynClen i n) Between :=
  serves_getDec fun _ => .bind (serves_clenLoop hcall _) fun _ => serves_getDec fun _ =>
    .bind (serves_buildSlot (by decide) _ rfl) fun _ => .bind serves_decModify fun _ =>
    serves_decGo

omit hcall in
theorem serves_appendRepeat (bad : Bool) (k v : Nat) : Serves s (At .dynLens) (appendRepeat bad k v) (At .dynLens) :=
  .bind serves_decModify fun _ => serves_failIf rfl fun _ => serves_decModify

theorem serves_repeatLens (t a : Nat) : Serves s (At .dynLens) (repeatLens i n t a) (At .dynLens) := by
  unfold repeatLens
  split
  · exact .bind (serves_takeAt hcall 2) fun _ => serves_getDec fun _ => serves_appendRepeat _ _ _
  · split
    · exact .bind (serves_takeAt hcall 3) fun _ => serves_getDec fun _ => serves_appendRepeat _ _ _
    · split
      · exact .bind (serves_takeAt hcall 7) fun _ => serves_getDec fun _ => serves_appendRepeat _ _ _
      · exact serves_decModify

theorem serves_lensItem (t : Nat) : Serves s (At .dynLens) (lensItem i n t) (At .dynLens) := by
  refine serves_getDec fun d => ?_
  split
  · exact serves_repeatLens hcall t _
  · refine .bind (serves_symAt hcall 2) fun a => ?_
    split
    · exact serves_decModify
    · exact .bind serves_decModify fun _ => serves_repeatLens hcall t a

theorem serves_lensLoop (t k : Nat) : Serves s (At .dynLens) (lensLoop i n t k) (At .dynLens) := by
  induction k with
  | zero => exact .pure fun _ hr => hr
  | succ k ih =>
    refine serves_getDec fun d => ?_
    split
    · exact .bind (serves_lensItem hcall t) fun _ => ih
    · exact .pure fun _ hr => hr

theorem serves_workDynLens : Serves s (At .dynLens) (workDynLens i n) Between :=
  serves_getDec fun _ => .bind (serves_lensLoop hcall _ _) fun _ => serves_getDec fun _ =>
    .bind (serves_buildSlot (by decide) _ rfl) fun _ => .bind (serves_buildSlot (by decide) _ rfl) fun _ =>
    serves_failIf rfl fun _ => serves_decGo

omit hcall in
theorem quiet_setLsym (a : Nat) : Quiet fun d => { d with lsym := a } := fun _ => ⟨rfl, rfl, rfl⟩

theorem serves_workDataSym : Serves s (At .dataSym) (workDataSym i n) Between := by
  refine .bind (serves_symAt hcall 0) fun a => ?_
  split
  · exact .bind serves_decModify fun _ => serves_decGo
  · split
    · exact serves_afterBlock
    · split
      · exact .bind (serves_decModify (quiet_setLsym _)) fun _ => serves_decGo
      · exact serves_decFail rfl

theorem serves_workLitOut : Serves s (At .litOut) (workLitOut o m) Between :=
  .bind (serves_checkRoom (by simp [Works])) fun _ => serves_getDec fun _ => .bind (serves_putByte hcall _) fun _ =>
    serves_decGo

theorem serves_workLenExtra : Serves s (At .lenExtra) (workLenExtra i n) Between :=
  serves_getDec fun _ => .bind (serves_takeAt hcall _) fun _ => .bind serves_decModify fun _ =>
    serves_decGo

theorem serves_workDistSym : Serves s (At .distSym) (workDistSym i n) Between :=
  .bind (serves_symAt hcall 1) fun _ => serves_failIf rfl fun _ => .bind serves_decModify fun _ =>
    serves_decGo

theorem serves_workDistExtra : Serves s (At .distExtra) (workDistExtra i n) Between :=
  serves_getDec fun _ => .bind (serves_takeAt hcall _) fun _ => serves_distance _

theorem serves_copyLoop (k : Nat) : Serves s (At .copy) (copyLoop o m k) (At .copy) := by
  induction k with
  | zero => exact .pure fun _ hr => hr
  | succ k ih =>
    exact .bind (serves_checkRoom (by simp [Works])) fun _ => serves_histByte hcall fun _ => .bind (serves_putByte hcall _) fun _ =>
      .bind serves_decModify fun _ => ih

theorem serves_workCopy : Serves s (At .copy) (workCopy o m) Between :=
  serves_getDec fun _ => .bind (serves_copyLoop hcall _) fun _ => serves_decGo

theorem serves_workZtrailer : Serves s (At .ztrailer) (workZtrailer i n) Between :=
  .bind (serves_takeAt hcall 32) fun _ => serves_getDec fun _ => serves_failIf rfl fun _ =>
    serves_decGo

theorem serves_decWork {p : DecPhase} (hp : Works p) : Serves s (At p) (decWork i n o m p) Between := by
  cases p with
  | zhdr => exact serves_workZhdr hcall
  | bhdr => exact serves_workBhdr hcall
  | storedLen => exact serves_workStoredLen hcall
  | storedCopy => exact serves_workStoredCopy hcall
  | dynCounts => exact serves_workDynCounts hcall
  | dynClen => exact serves_workDynClen hcall
  | dynLens => exact serves_workDynLens hcall
  | dataSym => exact serves_workDataSym hcall
  | litOut => exact serves_workLitOut hcall
  | lenExtra => exact serves_workLenExtra hcall
  | distSym => exact serves_workDistSym hcall
  | distExtra => exact serves_workDistExtra hcall
  | copy => exact serves_workCopy hcall
  | ztrailer => exact serves_workZtrailer hcall
  | idle => exact absurd rfl hp.1
  | done => exact absurd rfl hp.2.1
  | failed => exact absurd rfl hp.2.2

/-- The loop, from an open stream on. -/
theorem serves_decLoop (fuel : Nat) :
    Serves s (fun r => Between r ∧ r.s.dec.phase ≠ .done) (decLoop i n o m fuel) Between := by
  induction fuel with
  | zero => exact .pure fun _ hr => ⟨hr.1, hr.2.1⟩
  | succ fuel ih =>
    intro r ⟨hprogress, ⟨⟨hidle, hfailed⟩, hat⟩, hdone⟩
    refine Triple.bind (serves_decWork hcall ⟨hidle, hdone, hfailed⟩) (fun _ r' hr' => ?_) r ⟨hprogress, hat⟩
    rw [bind_ok (getDec_run r')]
    by_cases hlast : r'.s.dec.phase = .done
    · rw [if_pos hlast]
      exact hr'
    · rw [if_neg hlast]
      exact ih r' ⟨hr'.1, hr'.2, hlast⟩

end

end Sys2Proof.Proofs
end

section
/-! SUPPORT. The completions of DEC_RUN on an open stream (46_decoder.md R445 to R447, R480, R486). -/

namespace Sys2Proof.Proofs

open Sys2Proof.Machine Sys2Proof.Claims

/-! The whole run. -/

section
variable {s : State} {i n o m : Nat} (hcall : Call s i n o m) (hopen : openStream s.dec)
include hcall

theorem Call.start : DecProgress s { s := s, c := 0, w := 0 } where
  elsewhere := rfl
  consumed := Nat.zero_le _
  produced := ⟨[], rfl, .nothing _ _⟩
  room := Nat.zero_le _
  reach hmode := by
    obtain ⟨-, -, -, -, hhist, -⟩ := decReady_oneshot hcall.ready hmode
    exact hhist

include hopen

theorem Call.between : Between { s := s, c := 0, w := 0 } := by
  refine ⟨⟨hopen.1, hopen.2.2⟩, rfl, fun hphase hmode => ?_⟩
  obtain ⟨-, -, -, -, -, hmdist⟩ := decReady_oneshot hcall.ready hmode
  exact hmdist hphase

/-- The loop ends in DONE or halts. -/
theorem Call.triple_decBody : Triple (· = { s := s, c := 0, w := 0 }) (decBody i n o m)
    (fun _ r => DecProgress s r ∧ r.s.dec.phase = .done) (Halted s) := by
  rintro r rfl
  have hbetween := hcall.between hopen
  have ⟨_, hdone, _⟩ := hopen
  have hloop : Serves s (fun r => Between r ∧ r.s.dec.phase ≠ .done) (decBody i n o m) Between :=
    fun r hr => serves_decLoop hcall _ r hr
  have hend := hloop _ ⟨hcall.start, hbetween, hdone⟩
  split at hend
  · next hrun => exact ⟨hend.1, decBody_done hbetween.1 hdone hrun⟩
  · exact hend

end

/-! Its completion. -/

/-- A call of DEC_RUN begun in `s` completes after the run `r` and leaves the decoder `d`: the totals have the run's bytes, and
the code, the phase and the failure record agree. -/
structure DecEnds (s : State) (r : Run) (d : Dec) (code cause : Byte) (info : Word) : Prop where
  completes : exec .decRun s = .next (failedWith (r.s.setDec d) code cause info (BitVec.ofNat 32 r.c) (BitVec.ofNat 32 r.w))
  tally : ledger d = ledger r.decTally.dec
  outcome : code = 0x01#8 ∨ code = 0x02#8 ∨ code = 0x03#8 ∨ code = 0x21#8
  done : code = 0x01#8 ↔ d.phase = .done
  needsInput : code = 0x02#8 → r.c = s.args.a1.toNat
  failed : code = 0x21#8 ↔ d.phase = .failed
  clean : code ≠ 0x21#8 → cause = 0#8 ∧ info = 0#32
  record : code = 0x21#8 → d.fcode = code ∧ d.fcause = cause ∧ d.finfo = info ∧ info = d.totalIn

section
variable {s : State} {r : Run}

theorem decEnds_done (hrun : decRun s s = .ok (some (r.finished .done)) r.decTally) (hdone : r.s.dec.phase = .done) :
    DecEnds s r r.decTally.dec 0x01#8 0#8 0#32 where
  completes := exec_decRun_of_finish hrun rfl
  tally := rfl
  outcome := .inl rfl
  done := iff_of_true rfl hdone
  needsInput := nofun
  failed := iff_of_false nofun fun h => nomatch hdone.symm.trans h
  clean _ := ⟨rfl, rfl⟩
  record := nofun

theorem decEnds_suspended {code : Code} (hrun : decRun s s = .ok (some (r.finished code)) r.decTally)
    (hopen : openStream r.s.dec) (hcode : code = .hasMoreOutput ∨ code = .needsInput ∧ r.c = s.args.a1.toNat) :
    DecEnds s r r.decTally.dec code.toByte 0#8 0#32 := by
  obtain ⟨-, hdone, hfailed⟩ := hopen
  obtain rfl | ⟨rfl, hc⟩ := hcode
  · exact ⟨exec_decRun_of_finish hrun rfl, rfl, .inr (.inr (.inl rfl)), iff_of_false nofun hdone, nofun,
      iff_of_false nofun hfailed, fun _ => ⟨rfl, rfl⟩, nofun⟩
  · exact ⟨exec_decRun_of_finish hrun rfl, rfl, .inr (.inl rfl), iff_of_false nofun hdone, fun _ => hc,
      iff_of_false nofun hfailed, fun _ => ⟨rfl, rfl⟩, nofun⟩

theorem decEnds_corrupt {c : Cause} {info : Nat} (hrun : decRun s s = .error (r.raised c info) (r.decTally.decFailed c info))
    (hc : c.code = .corruptData) (hinfo : info = r.s.dec.totalIn.toNat + r.c) :
    DecEnds s r (r.decTally.decFailed c info).dec 0x21#8 c.num (BitVec.ofNat 32 info) := by
  have hbyte : c.code.toByte = 0x21#8 := by rw [hc]; rfl
  have hexec := exec_decRun_of_raise hrun (by rw [Run.raised, hbyte]; rfl)
  rw [Run.raised, hbyte] at hexec
  have htotal : BitVec.ofNat 32 info = r.decTally.dec.totalIn := by
    rw [hinfo, BitVec.ofNat_add, ofNat_toNat_word]
    rfl
  exact ⟨hexec, rfl, .inr (.inr (.inr rfl)), iff_of_false nofun nofun, nofun, iff_of_true rfl rfl, fun h => absurd rfl h,
    fun _ => ⟨hbyte, rfl, rfl, htotal⟩⟩

/-- Every call on an open stream with its buffers ready completes, with its bytes accounted for. -/
theorem Call.completes (hcall : Call s s.args.a0.toNat s.args.a1.toNat s.args.a2.toNat s.args.a3.toNat)
    (hopen : openStream s.dec) : ∃ r d code cause info, DecProgress s r ∧ DecEnds s r d code cause info := by
  have hrun := decRun_of_ready hopen hcall.readable hcall.ready
  have hbody := hcall.triple_decBody hopen _ rfl
  split at hbody
  · next u r hbody' =>
    obtain ⟨hprogress, hdone⟩ := hbody
    rw [hbody'] at hrun
    exact ⟨r, _, _, _, _, hprogress, decEnds_done (hrun.trans (decEnd_done hdone)) hdone⟩
  · next e r hbody' =>
    obtain ⟨hprogress, hend⟩ := hbody
    rw [hbody'] at hrun
    cases e with
    | done code =>
      obtain ⟨hopen', hcode⟩ := hend
      exact ⟨r, _, _, _, _, hprogress, decEnds_suspended hrun hopen' hcode⟩
    | error c info =>
      obtain ⟨hc, hinfo⟩ := hend
      exact ⟨r, _, _, _, _, hprogress, decEnds_corrupt hrun hc hinfo⟩

/-- The bytes that the call has room for lie in its output range. -/
theorem Call.outputAt_mem_decRange {i n o m k : Nat} (hcall : Call s i n o m) (hk : k < decLimit s) :
    (decRange s).1 ≤ outputAt s.dec s.args.a2.toNat k ∧
      outputAt s.dec s.args.a2.toNat k < (decRange s).1 + (decRange s).2 := by
  unfold decLimit at hk
  unfold decRange outputAt
  cases hmode : s.dec.omode with
  | stream => rw [hmode] at hk; dsimp only at hk ⊢; omega
  | oneshot => rw [hmode] at hk; dsimp only at hk ⊢; omega
  | wrap =>
    obtain ⟨-, -, -, hpos⟩ := decReady_wrap hcall.ready hmode
    have := Nat.mod_lt (s.dec.opos + k) (Nat.zero_lt_of_lt hpos)
    dsimp only
    omega

end

/-- Settles O48: each of the loop's works keeps the account of the bytes, and the three ways the loop ends complete the call
with it. -/
theorem decRunCompletes : Obligations.DecRunCompletes := by
  rintro s n rfl hopen hin hready
  have hcall : Call s s.args.a0.toNat s.args.a1.toNat s.args.a2.toNat s.args.a3.toNat := ⟨⟨rfl, rfl⟩, ⟨rfl, rfl⟩, hin, hready⟩
  obtain ⟨r, d, code, cause, info, hprogress, hends⟩ := hcall.completes hopen
  obtain ⟨made, hlength, hmade⟩ := hprogress.produced
  have hledger := hends.tally
  have htotalIn : d.totalIn = s.dec.totalIn + BitVec.ofNat 32 r.c :=
    (congrArg Dec.totalIn hledger :).trans (congrArg (·.totalIn + BitVec.ofNat 32 r.c) hmade.ledger :)
  have htotalOut : d.totalOut = s.dec.totalOut + BitVec.ofNat 32 r.w :=
    (congrArg Dec.totalOut hledger :).trans (congrArg (·.totalOut + BitVec.ofNat 32 r.w) hmade.ledger :)
  have hstate : r.s.setDec d = _ := eq_of_undecoded (s := s) hprogress.elsewhere
  refine ⟨_, code, cause, info, r.c, r.w, made, hends.completes, congrArg (failedWith · code cause info _ _) hstate,
    hprogress.consumed, hprogress.room, hends.outcome, hends.done, hends.needsInput, hends.failed, hends.clean, fun hcode => ?_,
    htotalIn, htotalOut, hlength, (congrArg Dec.adler hledger :).trans hmade.adler, hmade.crc, fun hwf k b hk hkept => ?_,
    fun x hx => hmade.kept x fun k hk => ?_⟩
  · obtain ⟨hfcode, hfcause, hfinfo, hinfo⟩ := hends.record hcode
    exact ⟨hfcode, hfcause, hfinfo, hinfo.trans htotalIn⟩
  · exact hmade.laid hwf k b hk fun j hkj hj => outputAt_ne hkj (hlength ▸ hj) hkept _
  · obtain ⟨hlow, hhigh⟩ := hcall.outputAt_mem_decRange ((hlength ▸ hk).trans_le hprogress.room)
    rintro rfl
    omega

end Sys2Proof.Proofs
end

section
/-! SUPPORT. How the checks and the reads of a ZIP command run when they pass, and ZIP_VERIFY, ZIP_NAME_CHECK and ZIP_NAME_CMP
(47_zip_records.md R512, R546, R550). -/

namespace Sys2Proof.Proofs

open Sys2Proof.Machine Sys2Proof.Claims Sys2Proof.Laws

/-! Checks and reads, with what follows them. -/

section
variable {s : State}

theorem runCmd_deny_false {bad : Bool} {c : Cause} {info : Nat} {k : Unit → Cmd Finish} (h : bad = false) :
    runCmd (deny bad c info >>= k) s = runCmd (k ()) s := by
  rw [h, runCmd_congr (bind_ok (deny_false c info s))]

theorem runCmd_deny_true {bad : Bool} {c : Cause} {info : Nat} {k : Unit → Cmd Finish} (h : bad = true) :
    runCmd (deny bad c info >>= k) s = .next (raised s c.code.toByte c.num (BitVec.ofNat 32 info)) := by
  rw [h, runCmd_of_raise (bind_of_raise (deny_true c info s))]

theorem runCmd_checkRange_of_readable {a n : Nat} {k : Unit → Cmd Finish} (h : Readable s a n) :
    runCmd (checkRange a n >>= k) s = runCmd (k ()) s := by
  obtain ⟨hnull, hend, -⟩ := h
  exact runCmd_congr (bind_ok (checkRange_ok s hnull hend))

theorem runCmd_checkRange_of_writable {a n : Nat} {k : Unit → Cmd Finish} (h : Writable s a n) :
    runCmd (checkRange a n >>= k) s = runCmd (k ()) s := by
  obtain ⟨hnull, hend, -⟩ := h
  exact runCmd_congr (bind_ok (checkRange_ok s hnull hend))

/-- A part of a readable range is read. -/
theorem runCmd_memRead_within {a n lo m : Nat} {k : List Byte → Cmd Finish} (h : Readable s a n) (hin : lo + m ≤ n) :
    runCmd (memRead (a + lo) m >>= k) s = runCmd (k (bytesAt s (a + lo) m)) s := by
  obtain ⟨-, -, hok⟩ := h
  refine runCmd_congr (bind_ok (memRead_ok (State.readRange_of_ok fun j hj => ?_)))
  rw [Nat.add_assoc]
  exact hok _ (by omega)

theorem runCmd_memRead_start {a n m : Nat} {k : List Byte → Cmd Finish} (h : Readable s a n) (hin : m ≤ n) :
    runCmd (memRead a m >>= k) s = runCmd (k (bytesAt s a m)) s :=
  runCmd_memRead_within (lo := 0) h ((Nat.zero_add m).trans_le hin)

end

/-! ZIP_VERIFY. -/

theorem exec_zipVerify (s : State) : exec .zipVerify s = runCmd (do
    deny (s.args.a0 != s.zf.usize) .size s.args.a0.toNat
    deny (s.crcAcc != s.zf.crc) .crc s.crcAcc.toNat
    finish .ok 0 0) s := rfl

/-- The word of ZIP_VERIFY, which has no fields. -/
theorem decode_eq_zipVerify_iff {w : Word} : decode w = .ok .zipVerify ↔ w = 0x00000068#32 := by
  have hmask : w &&& 0xFFFFFFFF#32 = w := BitVec.and_allOnes
  rw [decode_eq_ok_iff, show rowMask .zipVerify = 0xFFFFFFFF#32 from rfl, hmask]
  exact and_iff_left rfl

/-- Settles O59: the two checks in their order. -/
theorem verifyChecksSizeThenCrc : Obligations.VerifyChecksSizeThenCrc := by
  refine ⟨fun w => decode_eq_zipVerify_iff, fun s => ?_⟩
  rw [exec_zipVerify]
  refine ⟨fun hsize => ?_, fun hsize hcrc => ?_, fun hsize hcrc => ?_⟩
  · rw [runCmd_deny_true (bne_iff_ne.mpr hsize), ofNat_toNat_word]
    rfl
  · rw [runCmd_deny_false (bne_eq_false_iff_eq.mpr hsize), runCmd_deny_true (bne_iff_ne.mpr hcrc),
      ofNat_toNat_word]
    rfl
  · rw [runCmd_deny_false (bne_eq_false_iff_eq.mpr hsize), runCmd_deny_false (bne_eq_false_iff_eq.mpr hcrc)]
    exact runCmd_of_finish (finish_run .ok 0 0 s) rfl

/-! ZIP_NAME_CHECK. -/

/-- Good bytes at the head of a name are passed over. -/
theorem checkNameFrom_append {good : List Byte} (h : ∀ b ∈ good, b ≠ 0x5C#8 ∧ b ≠ 0x3A#8) (i : Nat) (rest : List Byte) :
    checkNameFrom i (good ++ rest) = checkNameFrom (i + good.length) rest := by
  induction good generalizing i with
  | nil => rfl
  | cons b good ih =>
    obtain ⟨hb, hgood⟩ := List.forall_mem_cons.mp h
    rw [List.cons_append, checkNameFrom, if_neg hb.1, if_neg hb.2, ih hgood, List.length_cons, Nat.add_assoc, Nat.add_comm 1]

theorem checkNameFrom_of_good {name : List Byte} (h : ∀ b ∈ name, b ≠ 0x5C#8 ∧ b ≠ 0x3A#8) (i : Nat) :
    checkNameFrom i name = pure () := by
  rw [← List.append_nil name, checkNameFrom_append h]
  rfl

/-- The walk from the first byte that is not good. -/
theorem checkNameFrom_of_getElem? {name : List Byte} {k : Nat} {b : Byte}
    (hgood : ∀ b ∈ name.take k, b ≠ 0x5C#8 ∧ b ≠ 0x3A#8) (hb : name[k]? = some b) :
    checkNameFrom 0 name = checkNameFrom k (b :: name.drop (k + 1)) := by
  obtain ⟨hk, rfl⟩ := List.getElem?_eq_some_iff.mp hb
  conv_lhs => rw [← List.take_append_drop k name, List.drop_eq_getElem_cons hk]
  rw [checkNameFrom_append hgood, List.length_take_of_le hk.le, Nat.zero_add]

/-- What ZIP_NAME_CHECK does with the name it has read. -/
def finishNameCheck (n : Nat) (name : List Byte) : Cmd Finish := do
  deny (name.head? == some 0x2F#8) .leadingSlash 0
  checkNameFrom 0 name
  finish .ok n 0

theorem exec_zipNameCheck (s : State) : exec .zipNameCheck s = runCmd (do
    deny (decide (0xFFFF < s.args.a1.toNat)) .lenRange s.args.a1.toNat
    readInput s.args.a0.toNat s.args.a1.toNat (finishNameCheck s.args.a1.toNat)) s := rfl

/-- Settles O52: the walk passes over the good bytes and raises at the first that is not. -/
theorem nameCheckFindsTheFirstBadByte : Obligations.NameCheckFindsTheFirstBadByte := by
  rintro s n name rfl
  rw [exec_zipNameCheck]
  refine ⟨fun hn => ?_, fun hn hr hname => ?_⟩
  · rw [runCmd_deny_true (decide_eq_true hn), ofNat_toNat_word]
    rfl
  rw [runCmd_deny_false (decide_eq_false (Nat.not_lt.mpr hn)), runCmd_congr (readInput_of_readable _ hr), ← hname,
    finishNameCheck]
  refine ⟨fun hhead => runCmd_deny_true (beq_iff_eq.mpr hhead), fun hhead => ?_⟩
  rw [runCmd_deny_false (beq_eq_false_iff_ne.mpr hhead)]
  refine ⟨fun hgood => ?_, fun k hgood => ⟨fun hk => ?_, fun hk => ?_⟩⟩
  · rw [checkNameFrom_of_good hgood, pure_bind, runCmd_of_finish (finish_run .ok _ 0 s) rfl, ofNat_toNat_word]
    rfl
  · rw [checkNameFrom_of_getElem? hgood hk]
    exact runCmd_of_raise (bind_of_raise rfl)
  · rw [checkNameFrom_of_getElem? hgood hk]
    exact runCmd_of_raise (bind_of_raise rfl)

/-! ZIP_NAME_CMP. -/

theorem map_toNat_comparedName (cs : Bool) (name : List Byte) :
    (comparedName cs name).map BitVec.toNat = name.map (folded cs) := by
  have hfold (b : Byte) : (foldCase b).toNat = folded false b := by
    unfold foldCase folded
    split
    · next h => simp [h]; omega
    · next h => simp [h]
  cases cs
  · simp [comparedName, hfold]
  · exact List.map_congr_left fun b _ => rfl

theorem nameOrder_append (p xs ys : List Byte) : nameOrder (p ++ xs) (p ++ ys) = nameOrder xs ys := by
  induction p with
  | nil => rfl
  | cons b p ih => rw [List.cons_append, List.cons_append, nameOrder, if_pos rfl, ih]

/-- Names with a common part are ordered as what follows it. -/
theorem nameOrder_of_common {xs ys : List Byte} {p A B : List Nat} (hx : xs.map BitVec.toNat = p ++ A)
    (hy : ys.map BitVec.toNat = p ++ B) :
    ∃ xs' ys', xs'.map BitVec.toNat = A ∧ ys'.map BitVec.toNat = B ∧ nameOrder xs ys = nameOrder xs' ys' := by
  obtain ⟨p₁, xs', rfl, hp₁, hxs⟩ := List.map_eq_append_iff.mp hx
  obtain ⟨p₂, ys', rfl, hp₂, hys⟩ := List.map_eq_append_iff.mp hy
  have hp : p₁ = p₂ := List.map_injective_iff.mpr (fun _ _ => BitVec.eq_of_toNat_eq) (hp₁.trans hp₂.symm)
  exact ⟨xs', ys', hxs, hys, hp ▸ nameOrder_append p₁ xs' ys'⟩

/-- Equal names have no order. -/
theorem nameOrder_of_eq {xs ys : List Byte} (h : xs.map BitVec.toNat = ys.map BitVec.toNat) : nameOrder xs ys = none := by
  obtain ⟨xs', ys', hx, hy, ho⟩ := nameOrder_of_common (A := []) (B := []) (List.append_nil _).symm
    (h.symm.trans (List.append_nil _).symm)
  rw [ho, List.map_eq_nil_iff.mp hx, List.map_eq_nil_iff.mp hy, nameOrder]

theorem nameOrder_of_shorter {xs ys : List Byte} {x : Nat} {B : List Nat}
    (h : ys.map BitVec.toNat = xs.map BitVec.toNat ++ x :: B) : nameOrder xs ys = some true := by
  obtain ⟨xs', ys', hx, hy, ho⟩ := nameOrder_of_common (A := []) (List.append_nil _).symm h
  obtain ⟨b, bs, rfl, -, -⟩ := List.map_eq_cons_iff.mp hy
  rw [ho, List.map_eq_nil_iff.mp hx, nameOrder]

theorem nameOrder_of_longer {xs ys : List Byte} {x : Nat} {A : List Nat}
    (h : xs.map BitVec.toNat = ys.map BitVec.toNat ++ x :: A) : nameOrder xs ys = some false := by
  obtain ⟨xs', ys', hx, hy, ho⟩ := nameOrder_of_common (B := []) h (List.append_nil _).symm
  obtain ⟨a, as, rfl, -, -⟩ := List.map_eq_cons_iff.mp hx
  rw [ho, List.map_eq_nil_iff.mp hy, nameOrder]

/-- The first bytes that differ order the names. -/
theorem nameOrder_of_ne {xs ys : List Byte} {p A B : List Nat} {x y : Nat} (hx : xs.map BitVec.toNat = p ++ x :: A)
    (hy : ys.map BitVec.toNat = p ++ y :: B) (hne : x ≠ y) : nameOrder xs ys = some (decide (x < y)) := by
  obtain ⟨xs', ys', hx', hy', ho⟩ := nameOrder_of_common hx hy
  obtain ⟨a, as, rfl, rfl, -⟩ := List.map_eq_cons_iff.mp hx'
  obtain ⟨b, bs, rfl, rfl, -⟩ := List.map_eq_cons_iff.mp hy'
  rw [ho, nameOrder, if_neg fun hab => hne (congrArg BitVec.toNat hab)]

theorem exec_zipNameCmp (cs : Bool) (s : State) : exec (.zipNameCmp cs) s = execZipNameCmp cs s := rfl

/-- With its checks passed ZIP_NAME_CMP reads the two names and answers their order. -/
theorem exec_zipNameCmp_of_readable {s : State} (cs : Bool) (hna : s.args.a1.toNat ≤ 0xFFFF) (hnb : s.args.a3.toNat ≤ 0xFFFF)
    (ha : Readable s s.args.a0.toNat s.args.a1.toNat) (hb : Readable s s.args.a2.toNat s.args.a3.toNat) {o : Option Bool}
    (ho : nameOrder (comparedName cs (bytesAt s s.args.a0.toNat s.args.a1.toNat))
      (comparedName cs (bytesAt s s.args.a2.toNat s.args.a3.toNat)) = o) :
    exec (.zipNameCmp cs) s = .next (completed s 0x00#8 (BitVec.ofNat 32 o.isSome.toNat) (BitVec.ofNat 32 (orderWord o))) := by
  rw [exec_zipNameCmp, execZipNameCmp, runCmd_deny_false (decide_eq_false (Nat.not_lt.mpr hna)),
    runCmd_deny_false (decide_eq_false (Nat.not_lt.mpr hnb)), runCmd_checkRange_of_readable ha,
    runCmd_checkRange_of_readable hb, runCmd_memRead_start ha le_rfl, runCmd_memRead_start hb le_rfl, ← ho]
  exact runCmd_of_finish (finish_run .ok _ _ s) rfl

/-- Settles O58: the folded names are ordered by what follows their common part. -/
theorem nameCmpOrdersNames : Obligations.NameCmpOrdersNames := by
  intro s cs A B hna hnb ha hb hA hB
  rw [← map_toNat_comparedName] at hA hB
  refine ⟨fun h => ?_, fun p x xs hp hx => ?_, fun p x xs hx hp => ?_,
    fun p x y xs ys hx hy => ⟨fun hxy => ?_, fun hyx => ?_⟩⟩
  · exact exec_zipNameCmp_of_readable cs hna hnb ha hb (nameOrder_of_eq (hA.symm.trans (h.trans hB)))
  · exact exec_zipNameCmp_of_readable cs hna hnb ha hb (nameOrder_of_shorter (by rw [← hB, ← hA, hp, hx]))
  · exact exec_zipNameCmp_of_readable cs hna hnb ha hb (nameOrder_of_longer (by rw [← hB, ← hA, hp, hx]))
  · have horder := nameOrder_of_ne (hA.symm.trans hx) (hB.symm.trans hy) hxy.ne
    rw [decide_eq_true hxy] at horder
    exact exec_zipNameCmp_of_readable cs hna hnb ha hb horder
  · have horder := nameOrder_of_ne (hA.symm.trans hx) (hB.symm.trans hy) hyx.ne'
    rw [decide_eq_false hyx.not_gt] at horder
    exact exec_zipNameCmp_of_readable cs hna hnb ha hb horder

end Sys2Proof.Proofs
end

section
/-! SUPPORT. The record readers ZIP_CD_PARSE, ZIP_LH_CHECK and ZIP_EOCD_FIND (47_zip_records.md R526, R530, R540): the fields
that they take from a record's bytes are those of host memory. -/

namespace Sys2Proof.Proofs

open Sys2Proof.Machine Sys2Proof.Claims

/-! Fields of a range's bytes (20_memory.md R149). -/

section
variable {s : State} {a n i : Nat}

theorem half_lt (s : State) (a : Nat) : half s a < 2 ^ 16 := by
  have := (s.mem.read a).isLt
  have := (s.mem.read (a + 1)).isLt
  unfold half
  omega

theorem full_lt (s : State) (a : Nat) : full s a < 2 ^ 32 := by
  have := half_lt s a
  have := half_lt s (a + 2)
  unfold full
  omega

theorem byteAt_bytesAt (h : i < n) : byteAt (bytesAt s a n) i = (s.mem.read (a + i)).toNat := by
  simp [byteAt, bytesAt, h]

theorem le16_bytesAt (h : i + 2 ≤ n) : le16 (bytesAt s a n) i = half s (a + i) := by
  rw [le16, byteAt_bytesAt (by omega), byteAt_bytesAt (by omega)]
  rfl

theorem le32_bytesAt (h : i + 4 ≤ n) : le32 (bytesAt s a n) i = full s (a + i) := by
  rw [le32, le16_bytesAt (by omega), le16_bytesAt (by omega)]
  rfl

theorem drop_bytesAt (s : State) (a n i : Nat) : (bytesAt s a n).drop i = bytesAt s (a + i) (n - i) := by
  refine List.ext_getElem (by simp) fun j _ _ => ?_
  simp [bytesAt, Nat.add_assoc]

end

/-! ZIP_CD_PARSE. -/

theorem zipEntryOf_bytesAt (s : State) (r : Nat) : zipEntryOf (bytesAt s r 46) = Claims.entryAt s r := by
  simp (disch := decide) only [zipEntryOf, Claims.entryAt, le16_bytesAt, le32_bytesAt]

theorem centralLength_bytesAt (s : State) (r : Nat) :
    centralLength (bytesAt s r 46) = 46 + half s (r + 28) + half s (r + 30) + half s (r + 32) := by
  simp (disch := decide) only [centralLength, le16_bytesAt]

/-- The checks of ZIP_CD_PARSE, for the record's fields in host memory. -/
theorem takeCentral_bytesAt (s : State) (r av sz : Nat) : takeCentral r av sz (bytesAt s r 46) = (do
    deny (full s r != 0x02014B50) .badSigCd r
    deny (decide (av < 46 + half s (r + 28) + half s (r + 30) + half s (r + 32))) .truncated r
    deny (half s (r + 34) != 0) .multiDisk r
    deny ((half s (r + 8)).testBit 0 || (half s (r + 8)).testBit 6) .encrypted r
    deny ((half s (r + 8)).testBit 5) .patch r
    deny (full s (r + 20) == Config.archMax || full s (r + 24) == Config.archMax || full s (r + 42) == Config.archMax) .zip64 r
    deny (half s (r + 10) == 0 && full s (r + 24) != full s (r + 20)) .storedSize r
    deny (full s (r + 24) != 0 && full s (r + 20) == 0) .zeroCsize r
    deny (decide (sz < full s (r + 42) + 30 + full s (r + 20))) .outOfRange r
    modify fun t => { t with zf := Claims.entryAt s r }
    finish .ok (46 + half s (r + 28) + half s (r + 30) + half s (r + 32)) (r + 46)) := by
  simp (disch := decide) only [takeCentral, sigCentral, zipEntryOf_bytesAt, centralLength_bytesAt, le16_bytesAt,
    le32_bytesAt, Nat.add_zero]

theorem exec_zipCdParse (s : State) : exec .zipCdParse s = execZipCdParse s := rfl

/-- With 46 bytes available ZIP_CD_PARSE goes on with the record's fixed part. -/
theorem exec_zipCdParse_of_readable {s : State} (hr : Readable s s.args.a0.toNat s.args.a1.toNat) (hav : 46 ≤ s.args.a1.toNat) :
    exec .zipCdParse s =
      runCmd (takeCentral s.args.a0.toNat s.args.a1.toNat s.args.a2.toNat (bytesAt s s.args.a0.toNat 46)) s := by
  rw [exec_zipCdParse, execZipCdParse, runCmd_checkRange_of_readable hr,
    runCmd_deny_false (decide_eq_false (Nat.not_lt.mpr hav)), runCmd_memRead_start hr hav]

/-- A record that passes every check is loaded. -/
theorem exec_zipCdParse_of_good {s : State} (hr : Readable s s.args.a0.toNat s.args.a1.toNat) (hav : 46 ≤ s.args.a1.toNat)
    (hgood : goodCentral s s.args.a0.toNat s.args.a1.toNat s.args.a2.toNat) :
    exec .zipCdParse s = .next (completed { s with zf := Claims.entryAt s s.args.a0.toNat } 0x00#8
      (BitVec.ofNat 32 (46 + half s (s.args.a0.toNat + 28) + half s (s.args.a0.toNat + 30) + half s (s.args.a0.toNat + 32)))
      (s.args.a0 + 46#32)) := by
  obtain ⟨hsig, hlen, hdisk, hbit0, hbit6, hbit5, hcsize, husize, hofs, hstored, hzero, hend⟩ := hgood
  rw [exec_zipCdParse_of_readable hr hav, takeCentral_bytesAt, runCmd_deny_false (bne_eq_false_iff_eq.mpr hsig),
    runCmd_deny_false (decide_eq_false (Nat.not_lt.mpr hlen)), runCmd_deny_false (bne_eq_false_iff_eq.mpr hdisk),
    runCmd_deny_false (by simp only [hbit0, hbit6, Bool.or_self]), runCmd_deny_false hbit5,
    runCmd_deny_false (by simp [hcsize, husize, hofs]), runCmd_deny_false (by simpa using hstored),
    runCmd_deny_false (by simpa using hzero), runCmd_deny_false (decide_eq_false (Nat.not_lt.mpr hend)),
    runCmd_modify_finish, BitVec.ofNat_add _ 46, ofNat_toNat_word]

/-- Settles O56: the checks in their order, over the record's fields in host memory. -/
theorem cdParseLoadsTheEntry : Obligations.CdParseLoadsTheEntry := by
  rintro s r av sz rfl rfl rfl hr
  refine ⟨fun hav => ?_, fun hav hsig => ?_, fun hav hsig hlen hdisk hbits => ?_, exec_zipCdParse_of_good hr⟩
  · rw [exec_zipCdParse, execZipCdParse, runCmd_checkRange_of_readable hr, runCmd_deny_true (decide_eq_true hav),
      ofNat_toNat_word]
    rfl
  · rw [exec_zipCdParse_of_readable hr hav, takeCentral_bytesAt, runCmd_deny_true (bne_iff_ne.mpr hsig),
      ofNat_toNat_word]
    rfl
  · rw [exec_zipCdParse_of_readable hr hav, takeCentral_bytesAt, runCmd_deny_false (bne_eq_false_iff_eq.mpr hsig),
      runCmd_deny_false (decide_eq_false (Nat.not_lt.mpr hlen)),
      runCmd_deny_false (bne_eq_false_iff_eq.mpr hdisk), runCmd_deny_true (Bool.or_eq_true_iff.mpr hbits),
      ofNat_toNat_word]
    rfl

/-! ZIP_LH_CHECK. -/

theorem knownMethod_iff {m : Half} : knownMethod m = true ↔ m = 0#16 ∨ m = 8#16 := by
  rw [knownMethod, Bool.or_eq_true, beq_iff_eq, beq_iff_eq]

theorem exec_zipLhCheck (s : State) : exec .zipLhCheck s = execZipLhCheck s := rfl

/-- With its ranges readable ZIP_LH_CHECK reads the header, and its checks are those of the fields in host memory. -/
theorem exec_zipLhCheck_of_readable {s : State} (hh : Readable s s.args.a0.toNat s.args.a1.toNat)
    (hn : Readable s s.args.a3.toNat s.zf.nameLen.toNat) (hav : 30 ≤ s.args.a1.toNat) :
    let h := s.args.a0.toNat
    let n := s.zf.nameLen.toNat
    let length := 30 + half s (h + 26) + half s (h + 28)
    exec .zipLhCheck s = runCmd (do
      deny (full s h != 0x04034B50) .badSigLh h
      deny (decide (s.args.a1.toNat < 30 + half s (h + 26))) .truncated h
      deny (half s (h + 8) != s.zf.method.toNat || half s (h + 26) != n) .lhMismatch h
      let name ← memRead (h + 30) n
      let listed ← memRead s.args.a3.toNat n
      deny (name != listed) .lhMismatch h
      deny (!s.zf.flags.getLsbD 3 && (full s (h + 14) != s.zf.crc.toNat || full s (h + 18) != s.zf.csize.toNat ||
        full s (h + 22) != s.zf.usize.toNat)) .lhMismatch h
      deny (!knownMethod s.zf.method) .method s.zf.method.toNat
      deny (decide (s.args.a2.toNat < s.zf.lhOfs.toNat + length + s.zf.csize.toNat)) .outOfRange h
      finish .ok (s.zf.lhOfs.toNat + length) length) s := by
  rw [exec_zipLhCheck, execZipLhCheck, runCmd_checkRange_of_readable hh, runCmd_checkRange_of_readable hn,
    runCmd_deny_false (decide_eq_false (Nat.not_lt.mpr hav)), runCmd_memRead_start hh hav]
  simp (disch := decide) only [sigLocal, localLength, le16_bytesAt, le32_bytesAt, Nat.add_zero]

/-- Settles O57: a header that agrees with the entry passes every check. -/
theorem lhCheckAcceptsAMatchingHeader : Obligations.LhCheckAcceptsAMatchingHeader := by
  rintro s h av sz cn n ofs rfl rfl rfl rfl rfl hh hn hav hsig hmethod hnlen hname hsizes hknown rfl hend
  rw [exec_zipLhCheck_of_readable hh hn (Nat.le_of_add_right_le hav), hnlen,
    runCmd_deny_false (bne_eq_false_iff_eq.mpr hsig), runCmd_deny_false (decide_eq_false (Nat.not_lt.mpr hav)),
    runCmd_deny_false (by simp [hmethod]), runCmd_memRead_within hh hav, runCmd_memRead_start hn le_rfl,
    runCmd_deny_false (bne_eq_false_iff_eq.mpr hname), runCmd_deny_false ?_,
    runCmd_deny_false (by rw [knownMethod_iff.mpr hknown]; rfl),
    runCmd_deny_false (decide_eq_false (by omega)), runCmd_of_finish (finish_run .ok _ _ s) rfl, ← Nat.add_assoc,
    ← Nat.add_assoc]
  · rfl
  · obtain hbit | ⟨hcrc, hcsize, husize⟩ := hsizes
    · rw [hbit]
      rfl
    · simp [hcrc, hcsize, husize]

/-! ZIP_EOCD_FIND. -/

/-- The walk past the last signature keeps what it has found. -/
theorem eocdWalk_of_none {k q : Nat} {w : List Byte} {best : Option (Nat × List Byte)}
    (h : ∀ j < k, le32 (w.drop j) 0 ≠ sigEnd) : eocdWalk k q w best = best := by
  induction k generalizing q w best with
  | zero => rfl
  | succ k ih =>
    have h0 : le32 w 0 ≠ sigEnd := h 0 (Nat.succ_pos k)
    rw [eocdWalk, if_neg h0]
    exact ih fun j hj => by simpa using h (j + 1) (by omega)

/-- The walk finds the highest signature. -/
theorem eocdWalk_of_highest {k q m : Nat} {w : List Byte} {best : Option (Nat × List Byte)} (hm : m < k)
    (hsig : le32 (w.drop m) 0 = sigEnd) (habove : ∀ j, m < j → j < k → le32 (w.drop j) 0 ≠ sigEnd) :
    eocdWalk k q w best = some (q + m, w.drop m) := by
  induction k generalizing q w m best with
  | zero => exact absurd hm (Nat.not_lt_zero m)
  | succ k ih =>
    rw [eocdWalk]
    cases m with
    | zero =>
      rw [List.drop_zero] at hsig
      rw [if_pos hsig]
      exact eocdWalk_of_none fun j hj => by simpa using habove (j + 1) (by omega) (by omega)
    | succ m =>
      rw [ih (m := m) (by omega) (by simpa using hsig) fun j hmj hj => by simpa using habove (j + 1) (by omega) (by omega)]
      simp [Nat.add_assoc, Nat.add_comm 1]

theorem zipEndOf_bytesAt (s : State) (a p : Nat) {n : Nat} (h : 22 ≤ n) : zipEndOf (bytesAt s a n) p = endAt s a p := by
  simp (disch := omega) only [zipEndOf, endAt, le16_bytesAt, le32_bytesAt]

/-- The checks of ZIP_EOCD_FIND, for the record's fields in host memory. -/
theorem takeEocd_bytesAt (s : State) (a p sz : Nat) {n : Nat} (h : 22 ≤ n) : takeEocd p sz (bytesAt s a n) = (do
    deny (decide (sz < p + 22 + half s (a + 20))) .badEocd p
    deny (half s (a + 4) != 0 || half s (a + 6) != 0 || half s (a + 8) != half s (a + 10)) .multiDisk p
    deny (half s (a + 10) == 0xFFFF || full s (a + 12) == Config.archMax || full s (a + 16) == Config.archMax) .zip64 p
    deny (decide (full s (a + 12) < 46 * half s (a + 10))) .cdRange p
    deny (decide (p < full s (a + 16) + full s (a + 12))) .cdRange p
    modify fun t => { t with ze := endAt s a p }
    finish .ok p (half s (a + 10))) := by
  simp (disch := omega) only [takeEocd, zipEndOf_bytesAt, le16_bytesAt, le32_bytesAt]

/-- What ZIP_EOCD_FIND does with what its walk has found. -/
def finishEocdFind (sz : Nat) (found : Option (Nat × List Byte)) : Cmd Finish :=
  match found with
  | none => Cause.raise .noEocd 0
  | some (p, b) => takeEocd p sz b

theorem exec_zipEocdFind (s : State) : exec .zipEocdFind s = execZipEocdFind s := rfl

/-- With the tail readable ZIP_EOCD_FIND walks the bytes of the searched part of it. -/
theorem exec_zipEocdFind_of_readable {s : State} {len sz lo a : Nat} (hlen : len = s.args.a1.toNat) (hsz : sz = s.args.a2.toNat)
    (hle : len ≤ sz) (h22 : 22 ≤ len) (hr : Readable s s.args.a0.toNat len) (hlo : lo = max (sz - len) (sz - 65557))
    (ha : a = s.args.a0.toNat + (lo - (sz - len))) :
    exec .zipEocdFind s = runCmd (finishEocdFind sz (eocdWalk (sz - 22 - lo + 1) lo (bytesAt s a (sz - lo)) none)) s := by
  subst hlen hsz hlo ha
  rw [exec_zipEocdFind, execZipEocdFind, runCmd_deny_false (decide_eq_false (Nat.not_lt.mpr hle)),
    runCmd_checkRange_of_readable hr, runCmd_deny_false (decide_eq_false (Nat.not_lt.mpr h22)),
    runCmd_memRead_within hr (by omega)]
  rfl

/-- Settles O55: the walk finds the highest signature of the searched tail, and a record that passes the checks is loaded. -/
theorem eocdFindTakesTheHighestRecord : Obligations.EocdFindTakesTheHighestRecord := by
  intro s len sz lo arc hlen hsz hle h22 hr hlo harc
  have hin : lo + 22 ≤ sz := by omega
  have harcAdd (j : Nat) : arc lo + j = arc (lo + j) := by rw [harc, harc]; omega
  have hsigAt {j : Nat} (hj : lo + j + 22 ≤ sz) :
      le32 ((bytesAt s (arc lo) (sz - lo)).drop j) 0 = full s (arc (lo + j)) := by
    rw [drop_bytesAt, le32_bytesAt (by omega), harcAdd, Nat.add_zero]
  rw [exec_zipEocdFind_of_readable hlen hsz hle h22 hr hlo (harc lo)]
  refine ⟨fun hnone => ?_, fun p hp hpsz hsig habove hend hdisk hcdDisk hcount h16 hcdSize hcdOfs hmin hcd => ?_⟩
  · rw [eocdWalk_of_none fun j hj => by rw [hsigAt (by omega)]; exact hnone _ (by omega) (by omega)]
    exact runCmd_of_raise rfl
  · obtain ⟨m, rfl⟩ := Nat.exists_eq_add_of_le hp
    have hwalk : eocdWalk (sz - 22 - lo + 1) lo (bytesAt s (arc lo) (sz - lo)) none =
        some (lo + m, bytesAt s (arc (lo + m)) (sz - lo - m)) := by
      rw [eocdWalk_of_highest (m := m) (by omega) (by rw [hsigAt hpsz]; exact hsig)
        fun j hmj hj => by rw [hsigAt (by omega)]; exact habove _ (by omega) (by omega), drop_bytesAt, harcAdd]
    rw [hwalk, finishEocdFind, takeEocd_bytesAt s _ _ _ (by omega),
      runCmd_deny_false (decide_eq_false (Nat.not_lt.mpr hend)),
      runCmd_deny_false (by simp [hdisk, hcdDisk, hcount]), runCmd_deny_false (by simp [h16, hcdSize, hcdOfs]),
      runCmd_deny_false (decide_eq_false (Nat.not_lt.mpr hmin)),
      runCmd_deny_false (decide_eq_false (Nat.not_lt.mpr hcd)), runCmd_modify_finish]

end Sys2Proof.Proofs
end

section
/-! SUPPORT. The record writers ZIP_LH_WRITE, ZIP_CD_WRITE and ZIP_EOCD_WRITE (47_zip_records.md R511, R514, R515, R518, R522). -/

namespace Sys2Proof.Proofs

open Sys2Proof.Machine Sys2Proof.Claims

/-! Records as lists of fields. -/

theorem layout_two (v : Nat) (fields : List (Nat × Nat)) : layout ((2, v) :: fields) = bytes16 v ++ layout fields := by
  simp [layout, bytes16, List.range_succ_eq_map]

theorem layout_four (v : Nat) (fields : List (Nat × Nat)) : layout ((4, v) :: fields) = bytes32 v ++ layout fields := by
  simp [layout, bytes32, bytes16, List.range_succ_eq_map, Nat.div_div_eq_div_mul]

theorem layout_nil : layout [] = [] := rfl

theorem localHeader_eq (z : ZipEntry) : localHeader z = z.localBytes := by
  simp only [localHeader, ZipEntry.localBytes, sigLocal, layout_two, layout_four, layout_nil, List.append_assoc, List.append_nil]

theorem centralRecord_eq (z : ZipEntry) : centralRecord z = z.centralBytes := by
  simp only [centralRecord, ZipEntry.centralBytes, sigCentral, layout_two, layout_four, layout_nil, List.append_assoc,
    List.append_nil]

theorem endRecord_eq (z : ZipEnd) : endRecord z = z.endBytes := by
  simp only [endRecord, ZipEnd.endBytes, sigEnd, layout_two, layout_four, layout_nil, List.append_assoc, List.append_nil]

theorem length_localBytes (z : ZipEntry) : z.localBytes.length = 30 := by
  simp [ZipEntry.localBytes, bytes32, bytes16]

theorem length_centralBytes (z : ZipEntry) : z.centralBytes.length = 46 := by
  simp [ZipEntry.centralBytes, bytes32, bytes16]

theorem length_endBytes (z : ZipEnd) : z.endBytes.length = 22 := by
  simp [ZipEnd.endBytes, bytes32, bytes16]

/-! Inputs apart from the output, and the write. -/

theorem runCmd_checkOverlap_of_apart {s : State} {ins : List (Nat × Nat)} {o m : Nat} {k : Unit → Cmd Finish}
    (h : ∀ r ∈ ins, Apart r.1 r.2 o m) : runCmd (checkOverlap ins (o, m) >>= k) s = runCmd (k ()) s :=
  runCmd_congr (bind_ok (checkOverlap_ok s (List.any_eq_false.mpr fun r hr => by simp [rangesOverlap_of_apart (h r hr)])))

/-- A written range holds what was written, and nothing else has changed. -/
theorem stored_writeRange {s : State} {a : Nat} {bs : List Byte} (hwf : s.mem.wf = true)
    (hok : ∀ k < bs.length, s.memOk (a + k) .write = true) : Stored s (s.writeRange a bs).1 a bs := by
  refine ⟨fun k b hk => ?_, fun x hx => State.writeRange_outside s a bs hx⟩
  obtain ⟨hlt, rfl⟩ := List.getElem?_eq_some_iff.mp hk
  exact State.writeRange_inside hwf hok hlt

/-- A size or an offset that is not the ZIP64 mark passes the writers' check. -/
theorem toNat_beq_archMax {v : Word} (h : v ≠ 0xFFFFFFFF#32) : (v.toNat == Config.archMax) = false :=
  beq_eq_false_iff_ne.mpr fun heq => h (BitVec.eq_of_toNat_eq heq)

/-! ZIP_LH_WRITE. -/

/-- The alignments that ZIP_LH_WRITE takes. -/
theorem badAlign_eq_false {align : Nat} (h : align ≤ 1 ∨ ∃ e < 16, align = 2 ^ e) :
    (decide (1 < align) && (align &&& (align - 1)) != 0) = false := by
  obtain hle | ⟨e, -, rfl⟩ := h
  · rw [decide_eq_false (Nat.not_lt.mpr hle), Bool.false_and]
  · rw [Nat.and_two_pow_sub_one_eq_mod, Nat.mod_self, bne_self_eq_false, Bool.and_false]

theorem padding_eq {align off pad : Nat} (hsmall : align ≤ 1 → pad = 0)
    (hlarge : 1 < align → pad < align ∧ (off + pad) % align = 0) : padding align off = pad := by
  unfold padding
  split
  · next h => exact (hsmall h).symm
  · next h =>
    obtain ⟨hlt, hmod⟩ := hlarge (Nat.lt_of_not_le h)
    have hdvd : align ∣ off + (align - off % align) := by
      have hdiv := Nat.div_add_mod off align
      have hrest := Nat.mod_lt off (Nat.zero_lt_of_lt hlt)
      exact ⟨off / align + 1, by rw [Nat.mul_succ]; omega⟩
    have hsame : align - off % align ≡ pad [MOD align] :=
      Nat.ModEq.add_left_cancel' off ((Nat.mod_eq_zero_of_dvd hdvd).trans hmod.symm)
    exact Eq.trans hsame (Nat.mod_eq_of_lt hlt)

/-- The checks, the reads and the write of ZIP_LH_WRITE. -/
theorem exec_zipLhWrite (s : State) {align pad total : Nat} (hpad : padding align s.args.a3.toNat = pad)
    (htotal : total = pad + 30 + s.zf.nameLen.toNat + s.zf.extraLen.toNat) :
    exec (.zipLhWrite align) s = runCmd (do
      deny (decide (1 < align) && (align &&& (align - 1)) != 0) .badAlign align
      deny (!knownMethod s.zf.method) .badMethod s.zf.method.toNat
      checkRange s.args.a1.toNat s.zf.nameLen.toNat
      checkRange s.args.a2.toNat s.zf.extraLen.toNat
      checkRange s.args.a0.toNat total
      checkOverlap [(s.args.a1.toNat, s.zf.nameLen.toNat), (s.args.a2.toNat, s.zf.extraLen.toNat)] (s.args.a0.toNat, total)
      deny (decide (Config.archMax ≤ s.args.a3.toNat + pad) || s.zf.csize.toNat == Config.archMax ||
        s.zf.usize.toNat == Config.archMax) .zip64 s.args.a3.toNat
      let name ← memRead s.args.a1.toNat s.zf.nameLen.toNat
      let extra ← memRead s.args.a2.toNat s.zf.extraLen.toNat
      memWrite s.args.a0.toNat (List.replicate pad 0#8 ++ s.zf.localBytes ++ name ++ extra)
      modify (State.setLhOfs · (BitVec.ofNat 32 (s.args.a3.toNat + pad)))
      finish .ok pad total) s := by
  subst hpad htotal
  rfl

/-- Settles O53: the checks pass, both inputs are read, and the record is stored before ZF_LHOFS is set. -/
theorem lhWriteStoresTheHeader : Obligations.LhWriteStoresTheHeader := by
  intro s align pad bs hwf halign hmethod hsmall hlarge hbs hname hextra hout hnameApart hextraApart hofs hcsize husize
  have hpad : padding align s.args.a3.toNat = pad := padding_eq hsmall hlarge
  have hlength : pad + 30 + s.zf.nameLen.toNat + s.zf.extraLen.toNat = bs.length := by
    simp [hbs, localHeader_eq, length_localBytes, Nat.add_assoc]
  rw [localHeader_eq] at hbs
  rw [exec_zipLhWrite s hpad hlength.symm, runCmd_deny_false (badAlign_eq_false halign),
    runCmd_deny_false (by rw [knownMethod_iff.mpr hmethod]; rfl), runCmd_checkRange_of_readable hname,
    runCmd_checkRange_of_readable hextra, runCmd_checkRange_of_writable hout,
    runCmd_checkOverlap_of_apart (by simpa using ⟨hnameApart, hextraApart⟩),
    runCmd_deny_false (by simp [toNat_beq_archMax hcsize, toNat_beq_archMax husize, hofs]),
    runCmd_memRead_start hname le_rfl, runCmd_memRead_start hextra le_rfl, ← hbs]
  obtain ⟨-, -, hok⟩ := hout
  refine ⟨_, runCmd_of_finish (f := ⟨.ok, _, _⟩) ((bind_ok (memWrite_ok (State.writeRange_of_ok hok))).trans
    ((bind_ok (modify_run _ _)).trans (finish_run .ok _ _ _))) rfl, stored_writeRange hwf hok, ?_⟩
  rw [State.writeRange_frame, BitVec.ofNat_add, ofNat_toNat_word]
  rfl

/-! ZIP_CD_WRITE and ZIP_EOCD_WRITE. -/

/-- The checks, the reads and the write of ZIP_CD_WRITE. -/
theorem exec_zipCdWrite (s : State) {total : Nat}
    (htotal : total = 46 + s.zf.nameLen.toNat + s.zf.extraLen.toNat + s.zf.commentLen.toNat) :
    exec .zipCdWrite s = runCmd (do
      deny (!knownMethod s.zf.method) .badMethod s.zf.method.toNat
      checkRange s.args.a1.toNat s.zf.nameLen.toNat
      checkRange s.args.a2.toNat s.zf.extraLen.toNat
      checkRange s.args.a3.toNat s.zf.commentLen.toNat
      checkRange s.args.a0.toNat total
      checkOverlap [(s.args.a1.toNat, s.zf.nameLen.toNat), (s.args.a2.toNat, s.zf.extraLen.toNat),
        (s.args.a3.toNat, s.zf.commentLen.toNat)] (s.args.a0.toNat, total)
      deny (s.zf.csize.toNat == Config.archMax || s.zf.usize.toNat == Config.archMax || s.zf.lhOfs.toNat == Config.archMax)
        .zip64 s.zf.lhOfs.toNat
      let name ← memRead s.args.a1.toNat s.zf.nameLen.toNat
      let extra ← memRead s.args.a2.toNat s.zf.extraLen.toNat
      let comment ← memRead s.args.a3.toNat s.zf.commentLen.toNat
      memWrite s.args.a0.toNat (s.zf.centralBytes ++ name ++ extra ++ comment)
      finish .ok 0 total) s := by
  subst htotal
  rfl

theorem exec_zipEocdWrite (s : State) : exec .zipEocdWrite s = execZipEocdWrite s := rfl

/-- Settles O54: the checks pass, the inputs are read, and the record is stored. -/
theorem cdAndEocdWritesStoreTheRecords : Obligations.CdAndEocdWritesStoreTheRecords := by
  intro s bs hwf hout
  refine ⟨fun hmethod hbs hname hextra hcomment hnameApart hextraApart hcommentApart hcsize husize hofs => ?_,
    fun hbs hcomment hapart hnent hcdSize hcdOfs => ?_⟩
  · have hlength : 46 + s.zf.nameLen.toNat + s.zf.extraLen.toNat + s.zf.commentLen.toNat = bs.length := by
      simp [hbs, centralRecord_eq, length_centralBytes, Nat.add_assoc]
    rw [centralRecord_eq] at hbs
    rw [exec_zipCdWrite s hlength.symm, runCmd_deny_false (by rw [knownMethod_iff.mpr hmethod]; rfl),
      runCmd_checkRange_of_readable hname, runCmd_checkRange_of_readable hextra, runCmd_checkRange_of_readable hcomment,
      runCmd_checkRange_of_writable hout,
      runCmd_checkOverlap_of_apart (by simpa using ⟨hnameApart, hextraApart, hcommentApart⟩),
      runCmd_deny_false (by simp [toNat_beq_archMax hcsize, toNat_beq_archMax husize, toNat_beq_archMax hofs]),
      runCmd_memRead_start hname le_rfl, runCmd_memRead_start hextra le_rfl, runCmd_memRead_start hcomment le_rfl, ← hbs]
    obtain ⟨t, ht, hcompleted, hstored⟩ := runCmd_memWrite_finish hwf hout 0 bs.length
    exact ⟨t, ht, hstored, hcompleted⟩
  · have hlength : 22 + s.ze.commentLen.toNat = bs.length := by simp [hbs, endRecord_eq, length_endBytes]
    rw [endRecord_eq] at hbs
    rw [exec_zipEocdWrite, execZipEocdWrite]
    dsimp only
    rw [hlength, runCmd_checkRange_of_readable hcomment, runCmd_checkRange_of_writable hout,
      runCmd_checkOverlap_of_apart (by simpa using hapart), runCmd_deny_false (decide_eq_false (Nat.not_le.mpr hnent)),
      runCmd_deny_false (by simp [toNat_beq_archMax hcdSize, toNat_beq_archMax hcdOfs]),
      runCmd_memRead_start hcomment le_rfl, ← hbs]
    obtain ⟨t, ht, hcompleted, hstored⟩ := runCmd_memWrite_finish hwf hout 0 bs.length
    exact ⟨t, ht, hstored, hcompleted⟩

end Sys2Proof.Proofs
end

section
/-! SUPPORT. Parsing what ZIP_CD_WRITE wrote: what a command that completed with OK has done, and the fields of the record that it
wrote (47_zip_records.md R511, R518, R530). -/

namespace Sys2Proof.Proofs

open Sys2Proof.Machine Sys2Proof.Claims

/-! A command that completed with OK. -/

/-- The pseudocode `m`, begun in `s`, completes in `t` with OK. -/
def CompletesOk (m : Cmd Finish) (s t : State) : Prop := runCmd m s = .next t ∧ t.status.code = 0x00#8

/-- Each part of it succeeded, if a part fails only with the code of an error. -/
theorem CompletesOk.bind {α : Type} {m : Cmd α} {k : α → Cmd Finish} {s t : State} (h : CompletesOk (m >>= k) s t)
    (hm : ∀ e u, m s = .error e u → isError e.code = true) : ∃ a u, m s = .ok a u ∧ CompletesOk (k a) u t := by
  obtain ⟨hrun, hcode⟩ := h
  cases he : m s with
  | ok a u =>
    unfold runCmd at hrun
    rw [bind_ok he] at hrun
    exact ⟨a, u, rfl, hrun, hcode⟩
  | error e u =>
    rw [runCmd_error (bind_error he)] at hrun
    obtain rfl := Host.Outcome.next.inj hrun
    rw [State.complete_status] at hcode
    have herror := hm e u he
    rw [show e.code = 0x00#8 from hcode] at herror
    exact absurd herror (by decide)

theorem isError_of_raise_run {α : Type} {c : Cause} {info : Nat} {s u : State} {e : Raise}
    (h : (c.raise info : Cmd α) s = .error e u) : isError e.code = true := by
  rw [raise_run, EStateM.Result.error.injEq] at h
  obtain ⟨rfl, -⟩ := h
  exact isError_cause_code c

section
variable {s t : State}

theorem CompletesOk.deny {bad : Bool} {c : Cause} {info : Nat} {k : Unit → Cmd Finish}
    (h : CompletesOk (Machine.deny bad c info >>= k) s t) : bad = false ∧ CompletesOk (k ()) s t := by
  cases bad with
  | false => exact ⟨rfl, h⟩
  | true =>
    obtain ⟨_, _, hok, -⟩ := h.bind fun e u he => isError_of_raise_run ((deny_true c info s).symm.trans he)
    cases hok

theorem CompletesOk.checkRange {a n : Nat} {k : Unit → Cmd Finish} (h : CompletesOk (Machine.checkRange a n >>= k) s t) :
    CompletesOk (k ()) s t := by
  rw [Machine.checkRange, bind_assoc] at h
  exact h.deny.2.deny.2

theorem CompletesOk.checkOverlap {ins : List (Nat × Nat)} {out : Nat × Nat} {k : Unit → Cmd Finish}
    (h : CompletesOk (Machine.checkOverlap ins out >>= k) s t) : CompletesOk (k ()) s t := h.deny.2

theorem CompletesOk.memRead {a n : Nat} {k : List Byte → Cmd Finish} (h : CompletesOk (Machine.memRead a n >>= k) s t) :
    CompletesOk (k (bytesAt s a n)) s t := by
  cases hr : s.readRange a n with
  | ok bs =>
    obtain ⟨-, rfl⟩ := State.readRange_ok hr
    obtain ⟨bs', u, hok, hk⟩ := h.bind fun e u he => by rw [memRead_ok hr] at he; cases he
    rw [memRead_ok hr] at hok
    cases hok
    exact hk
  | error x =>
    obtain ⟨_, _, hok, -⟩ := h.bind fun e u he => isError_of_raise_run ((memRead_error hr).symm.trans he)
    rw [memRead_error hr] at hok
    cases hok

/-- A range write that has not failed could write every byte. -/
theorem memOk_of_writeRange {s : State} {a : Nat} {bs : List Byte} (h : (s.writeRange a bs).2 = none) :
    ∀ k < bs.length, s.memOk (a + k) .write = true := by
  induction bs generalizing s a with
  | nil => exact fun k hk => absurd hk (Nat.not_lt_zero k)
  | cons b bs ih =>
    unfold State.writeRange at h
    split at h
    · next h0 =>
      intro k hk
      cases k with
      | zero => exact h0
      | succ k =>
        have := ih h k (Nat.lt_of_succ_lt_succ hk)
        rwa [State.memOk_poke, Nat.add_assoc, Nat.add_comm 1] at this
    · cases h

theorem CompletesOk.memWrite {a : Nat} {bs : List Byte} {k : Unit → Cmd Finish} (hwf : s.mem.wf = true)
    (h : CompletesOk (Machine.memWrite a bs >>= k) s t) :
    ∃ m, Stored s { s with mem := m } a bs ∧ CompletesOk (k ()) { s with mem := m } t := by
  have hrun := memWrite_run a bs s
  cases hw : (s.writeRange a bs).2 with
  | none =>
    rw [hw] at hrun
    obtain ⟨_, u, hok, hk⟩ := h.bind fun e u he => by cases hrun.symm.trans he
    obtain ⟨-, rfl⟩ := EStateM.Result.ok.inj (hrun.symm.trans hok)
    rw [State.writeRange_frame] at hk
    exact ⟨_, stored_writeRange hwf (memOk_of_writeRange hw), hk⟩
  | some x =>
    rw [hw] at hrun
    obtain ⟨_, _, hok, -⟩ := h.bind fun e u he => isError_of_raise_run (hrun.symm.trans he)
    cases hrun.symm.trans hok

theorem CompletesOk.finish {r0 r1 : Nat} (h : CompletesOk (Machine.finish .ok r0 r1) s t) :
    t = completed s 0x00#8 (BitVec.ofNat 32 r0) (BitVec.ofNat 32 r1) :=
  (Host.Outcome.next.inj ((runCmd_of_finish (finish_run .ok r0 r1 s) rfl).symm.trans h.1)).symm

end

/-! The record that was written. -/

/-- ZIP_CD_WRITE that completed with OK found no ZIP64 mark and stored the record. -/
theorem stored_of_zipCdWrite {s t : State} {total : Nat}
    (htotal : total = 46 + s.zf.nameLen.toNat + s.zf.extraLen.toNat + s.zf.commentLen.toNat) (hwf : s.mem.wf = true)
    (hexec : exec .zipCdWrite s = .next t) (hcode : t.status.code = 0x00#8) :
    (s.zf.csize.toNat ≠ 0xFFFFFFFF ∧ s.zf.usize.toNat ≠ 0xFFFFFFFF ∧ s.zf.lhOfs.toNat ≠ 0xFFFFFFFF) ∧
      ∃ m rest, Stored s { s with mem := m } s.args.a0.toNat (s.zf.centralBytes ++ rest) ∧
        t = completed { s with mem := m } 0x00#8 0#32 (BitVec.ofNat 32 total) := by
  rw [exec_zipCdWrite s htotal] at hexec
  obtain ⟨-, h⟩ := CompletesOk.deny ⟨hexec, hcode⟩
  obtain ⟨hmarks, h⟩ := h.checkRange.checkRange.checkRange.checkRange.checkOverlap.deny
  replace h := h.memRead.memRead.memRead
  rw [List.append_assoc, List.append_assoc] at h
  obtain ⟨m, hstored, h⟩ := h.memWrite hwf
  exact ⟨by simpa [and_assoc] using hmarks, m, _, hstored, h.finish⟩

theorem bytesAt_of_stored {s t : State} {a : Nat} {bs rest : List Byte} (h : Stored s t a (bs ++ rest)) :
    bytesAt t a bs.length = bs := by
  obtain ⟨hin, -⟩ := h
  refine List.ext_getElem (length_bytesAt t a _) fun k hk hk' => ?_
  simpa [bytesAt] using hin k bs[k] (by rw [List.getElem?_append_left hk', List.getElem?_eq_getElem hk'])

section
variable (v i : Nat) (rest : List Byte)

theorem le16_bytes16_append : le16 (bytes16 v ++ rest) 0 = v % 2 ^ 16 := by
  simp [le16, byteAt, bytes16]
  omega

theorem le16_bytes16_append_add : le16 (bytes16 v ++ rest) (i + 2) = le16 rest i := by
  simp [le16, byteAt, bytes16]

theorem le16_bytes32_append_add : le16 (bytes32 v ++ rest) (i + 4) = le16 rest i := by
  simp [le16, byteAt, bytes32, bytes16]

theorem le32_bytes32_append : le32 (bytes32 v ++ rest) 0 = v % 2 ^ 32 := by
  rw [bytes32, List.append_assoc, le32, le16_bytes16_append, le16_bytes16_append_add _ 0, le16_bytes16_append]
  omega

theorem le32_bytes16_append_add : le32 (bytes16 v ++ rest) (i + 2) = le32 rest i := by
  simp [le32, le16, byteAt, bytes16]

theorem le32_bytes32_append_add : le32 (bytes32 v ++ rest) (i + 4) = le32 rest i := by
  simp [le32, le16, byteAt, bytes32, bytes16]

end
theorem le32_centralBytes (z : ZipEntry) : le32 z.centralBytes 0 = 0x02014B50 := by
  simp only [ZipEntry.centralBytes, List.append_assoc, le32_bytes32_append]
  decide

/-- The written record's fields are the entry registers, but for the disk number. -/
theorem zipEntryOf_centralBytes (z : ZipEntry) : zipEntryOf z.centralBytes = { z with diskStart := 0#16 } := by
  have hofs : bytes32 z.lhOfs.toNat = bytes32 z.lhOfs.toNat ++ [] := (List.append_nil _).symm
  rw [zipEntryOf, ZipEntry.centralBytes, hofs]
  simp only [List.append_assoc]
  simp only [le16_bytes16_append, le16_bytes16_append_add, le16_bytes32_append_add,
    le32_bytes32_append, le32_bytes16_append_add, le32_bytes32_append_add, Nat.mod_eq_of_lt (BitVec.isLt _),
    BitVec.ofNat_toNat, BitVec.setWidth_eq]
  rfl

theorem centralLength_centralBytes (z : ZipEntry) :
    centralLength z.centralBytes = 46 + z.nameLen.toNat + z.extraLen.toNat + z.commentLen.toNat := by
  simp only [centralLength, ZipEntry.centralBytes, List.append_assoc, le16_bytes16_append, le16_bytes16_append_add,
    le16_bytes32_append_add, Nat.mod_eq_of_lt (BitVec.isLt _)]

/-- The checks of ZIP_CD_PARSE in terms of the entry that it would load. -/
theorem goodCentral_iff {s : State} {r av sz : Nat} {z : ZipEntry} (hz : Claims.entryAt s r = z) :
    goodCentral s r av sz ↔ full s r = 0x02014B50 ∧
      46 + z.nameLen.toNat + z.extraLen.toNat + z.commentLen.toNat ≤ av ∧ z.diskStart.toNat = 0 ∧
      z.flags.toNat.testBit 0 = false ∧ z.flags.toNat.testBit 6 = false ∧ z.flags.toNat.testBit 5 = false ∧
      z.csize.toNat ≠ 0xFFFFFFFF ∧ z.usize.toNat ≠ 0xFFFFFFFF ∧ z.lhOfs.toNat ≠ 0xFFFFFFFF ∧
      (z.method.toNat = 0 → z.usize.toNat = z.csize.toNat) ∧ (z.usize.toNat ≠ 0 → z.csize.toNat ≠ 0) ∧
      z.lhOfs.toNat + 30 + z.csize.toNat ≤ sz := by
  subst hz
  simp only [Claims.entryAt, BitVec.toNat_ofNat, Nat.mod_eq_of_lt (half_lt _ _), Nat.mod_eq_of_lt (full_lt _ _)]
  rfl

/-- Settles O60: the record in memory holds the entry registers, which pass the parser's checks. -/
theorem centralRecordRoundTrip : Obligations.CentralRecordRoundTrip := by
  rintro s t u total sz hwf hexec hcode htotal hbit0 hbit5 hbit6 hmethod hzero hu hsz hr
  obtain ⟨⟨hcsize, husize, hofs⟩, m, rest, hstored, rfl⟩ := stored_of_zipCdWrite htotal hwf hexec hcode
  have ha0 : u.args.a0 = s.args.a0 := by rw [hu]; rfl
  have ha1 : u.args.a1.toNat = total := by
    rw [hu]
    exact Nat.mod_eq_of_lt (by omega)
  have ha2 : u.args.a2 = sz := by rw [hu]
  have hreadable : Readable u u.args.a0.toNat u.args.a1.toNat := by
    rw [ha1, ha0, hu]
    exact hr
  have hbytes : bytesAt u s.args.a0.toNat 46 = s.zf.centralBytes := by
    rw [← length_centralBytes s.zf, hu]
    exact bytesAt_of_stored hstored
  have hentry : Claims.entryAt u s.args.a0.toNat = { s.zf with diskStart := 0#16 } := by
    rw [← zipEntryOf_bytesAt, hbytes, zipEntryOf_centralBytes]
  have hsig : full u s.args.a0.toNat = 0x02014B50 := by
    rw [← le32_centralBytes s.zf, ← hbytes, le32_bytesAt (by decide), Nat.add_zero]
  have hgood : goodCentral u s.args.a0.toNat total sz.toNat := by
    refine (goodCentral_iff hentry).mpr ⟨hsig, htotal.ge, rfl, hbit0, hbit6, hbit5, hcsize, husize, hofs, fun h => ?_,
      fun h h' => ?_, hsz⟩
    · exact congrArg BitVec.toNat (hmethod (BitVec.eq_of_toNat_eq h))
    · exact hzero (fun h0 => h (congrArg BitVec.toNat h0)) (BitVec.eq_of_toNat_eq h')
  rw [exec_zipCdParse_of_good hreadable (by omega) (by rw [ha0, ha1, ha2]; exact hgood), ha0, hentry,
    ← centralLength_bytesAt, hbytes, centralLength_centralBytes, ← htotal]

end Sys2Proof.Proofs
end

section
/-! SUPPORT. DEC_RUN's loop never ends short of an end, so that every command completes, from every state (60_exceptions.md
R580; 46_decoder.md R445; log 11). -/

namespace Sys2Proof.Proofs

open Sys2Proof.Machine Sys2Proof.Claims

/-! DEC_RUN. -/

/-- A loop that goes on to its end is in DONE; every other end has its code or its raise. -/
theorem decEnd_decBody_ne_none {i n o m : Nat} {r : Run} {t : State} (hopen : openStream r.s.dec) :
    decEnd (decBody i n o m r) ≠ .ok none t := by
  obtain ⟨hidle, hdone, hfailed⟩ := hopen
  cases hbody : decBody i n o m r with
  | ok u r' =>
    rw [decEnd_done (decBody_done ⟨hidle, hfailed⟩ hdone hbody)]
    exact nofun
  | error e r' =>
    cases e with
    | done code => exact nofun
    | error c info => exact nofun

/-- `m`, from a state with an open stream, ends with a `Finish` or a raise. -/
abbrev EndsOpen (m : Cmd (Option Finish)) : Prop :=
  Triple (fun t => openStream t.dec) m (fun f _ => f ≠ none) fun _ _ => True

theorem endsOpen_decEnd (i n o m : Nat) :
    EndsOpen fun t => decEnd (decBody i n o m { s := t, c := 0, w := 0 }) := by
  intro t hopen
  split
  · next f u hend =>
    rintro rfl
    exact decEnd_decBody_ne_none (r := { s := t, c := 0, w := 0 }) hopen hend
  · exact True.intro

theorem Triple.checkOutput {s₀ : State} {P : State → Prop} (d : Dec) (o m : Nat) :
    Triple P (Machine.checkOutput d o m) (fun _ => P) (Failed s₀ P) := by
  unfold Machine.checkOutput
  split
  · exact .checkRangeLast
  · exact .pure fun _ ht => ht
  · exact .pure fun _ ht => ht

/-- DEC_RUN's checks keep the stream open. -/
theorem endsOpen_decOpen (d : Dec) (i n o m : Nat) : EndsOpen (decOpen d i n o m) := by
  have hany : ∀ e t, Failed State.reset (fun t => openStream t.dec) e t → True := fun _ _ _ => trivial
  exact .bind (Triple.checkRangeLast.loosen hany) fun _ => .bind ((Triple.checkOutput d o m).loosen hany) fun _ =>
    .bind (Triple.denyLast.loosen hany) fun _ => endsOpen_decEnd i n o m

theorem decOpen_ne_none {s : State} (hopen : openStream s.dec) (d : Dec) (i n o m : Nat) (t : State) :
    decOpen d i n o m s ≠ .ok none t := by
  intro h
  have hends := endsOpen_decOpen d i n o m s hopen
  rw [h] at hends
  exact hends rfl

/-- Without an open stream the call ends before its loop, with a code or a raise. -/
theorem decRun_ne_none (s t : State) : decRun s s ≠ .ok none t := by
  cases hphase : s.dec.phase with
  | idle | failed | done =>
    unfold decRun
    rw [hphase]
    exact nofun
  | _ =>
    have hopen : openStream s.dec := by simp [openStream, hphase]
    rw [decRun_of_open hopen]
    exact decOpen_ne_none hopen _ _ _ _ _ t

/-! Every command. -/

/-- An outcome that is the completion of some state. -/
def IsCompletion (o : Outcome) : Prop :=
  ∃ (u : State) (code cause : Byte) (info r0 r1 : Word), o = .next (u.complete code cause info r0 r1)

theorem isCompletion_runCmd (m : Cmd Finish) (s : State) : IsCompletion (runCmd m s) := by
  unfold runCmd
  split
  · exact ⟨_, _, _, _, _, _, rfl⟩
  · exact ⟨_, _, _, _, _, _, rfl⟩

theorem isCompletion_execDecRun (s : State) : IsCompletion (execDecRun s) := by
  unfold execDecRun
  split
  · exact ⟨_, _, _, _, _, _, rfl⟩
  · next t h => exact absurd h (decRun_ne_none s t)
  · exact ⟨_, _, _, _, _, _, rfl⟩

/-- DEC_RUN completes as its loop ends; every other command's meaning is a `runCmd`. -/
theorem isCompletion_exec (i : Instr) (s : State) : IsCompletion (exec i s) := by
  cases i
  case decRun => exact isCompletion_execDecRun s
  all_goals
    unfold exec
    exact isCompletion_runCmd _ s

/-! Every step. -/

theorem blockTurn_next (s : State) : ∃ t, blockTurn s = .next t := by
  unfold blockTurn
  split
  · split
    · next i _ =>
      obtain ⟨u, code, cause, info, r0, r1, h⟩ := isCompletion_exec i s
      exact ⟨_, h⟩
    · exact ⟨_, rfl⟩
  · exact ⟨_, rfl⟩

/-- Settles O17: the host's actions are next states as they stand, and the block's turn is a completion or changes nothing. -/
theorem everyStepGivesANextState : Obligations.EveryStepGivesANextState := by
  intro s
  unfold step
  split
  · exact blockTurn_next s
  · exact blockTurn_next _
  · exact ⟨_, rfl⟩

end Sys2Proof.Proofs
end

section
/-! SUPPORT. What the completion of a launched command word leaves, and the interrupt it asserts (60_exceptions.md R570, R572,
R580, R590). -/

namespace Sys2Proof.Proofs

open Sys2Proof.Machine Sys2Proof.Claims

/-! The completion of the word in CMD. -/

/-- `t` has completed the command word in CMD of `s`, and has kept IRQ_EN. -/
structure CompletesCmd (s t : State) : Prop where
  busy : t.status.busy = false
  cmpl : t.status.cmpl = true
  lastOpc : t.status.lastOpc = s.cmd.setWidth 8
  irqEn : t.irqEn = s.irqEn

theorem completesCmd_complete {s u : State} (hcmd : u.cmd = s.cmd) (hirq : u.irqEn = s.irqEn) (code cause : Byte)
    (info r0 r1 : Word) : CompletesCmd s (u.complete code cause info r0 r1) :=
  ⟨rfl, rfl, congrArg (BitVec.setWidth 8) hcmd, hirq⟩

/-- The command that a word decodes to leaves the word in CMD: RESET, which writes CMD, writes its own word (R212). -/
theorem cmd_of_exec {i : Instr} {s t : State} (hdecode : decode s.cmd = .ok i) (h : exec i s = .next t) : t.cmd = s.cmd := by
  by_cases hi : i = .reset
  · subst hi
    obtain rfl := Host.Outcome.next.inj (exec_reset s ▸ h)
    obtain ⟨hword, -⟩ := encodeOfDecodeIsTheWord s.cmd .reset hdecode
    exact hword
  · obtain ⟨hframe, -⟩ := performed_exec hi h
    exact hframe.cmd

theorem exec_completesCmd {i : Instr} {s : State} (hdecode : decode s.cmd = .ok i) :
    ∃ t, exec i s = .next t ∧ CompletesCmd s t := by
  obtain ⟨u, code, cause, info, r0, r1, h⟩ := isCompletion_exec i s
  obtain ⟨hirq, -⟩ := commandsWriteOnlyTheirOwnState i s _ h
  exact ⟨_, h, completesCmd_complete (cmd_of_exec hdecode h) hirq code cause info r0 r1⟩

/-- The block's step of a launched word, legal or not, completes the word. -/
theorem step_completesCmd {s : State} (hb : blockNext s) (hbusy : s.status.busy = true) :
    ∃ t, step s = .next t ∧ CompletesCmd s t := by
  cases hdecode : decode s.cmd with
  | ok i =>
    obtain ⟨t, ht, hbusy', hcmpl, hopc, hirq⟩ := exec_completesCmd (s := turnTaken s) hdecode
    exact ⟨t, (step_of_decode_ok hb hbusy hdecode).trans ht, hbusy', hcmpl, hopc, hirq⟩
  | error e => exact ⟨_, step_of_decode_error hb hbusy hdecode, completesCmd_complete (s := s) (u := turnTaken s) rfl rfl _ _ _ _ _⟩

/-- The invariant's clause on the completion record, in the words of the statement. -/
theorem recorded_iff {t : State} : t.recorded = true ↔ t.status.code ∈ completionCodes ∧
    (t.status.code.toNat < 0x10 → t.errCause = 0#8 ∧ t.errInfo = 0#32) ∧ (0x10 ≤ t.status.code.toNat → t.errCause ≠ 0#8) := by
  have hcodes : Code.all.map Code.toByte = completionCodes := rfl
  rw [State.recorded, hcodes, Bool.and_eq_true, List.contains_iff_mem]
  by_cases he : 0x10 ≤ t.status.code.toNat
  · simp [isError, he]
  · simp [isError, he]
    omega

/-- Settles O16: the step completes the word, and the completion record is a legal one because the step keeps the invariant. -/
theorem everyCommandCompletes : Obligations.EveryCommandCompletes := by
  intro s hs hb hbusy
  obtain ⟨t, hstep, hbusy', hcmpl, hopc, -⟩ := step_completesCmd hb hbusy
  exact ⟨t, hstep, hbusy', hcmpl, hopc, recorded_iff.mp (stepKeepsTheInvariant s t hs hstep).record⟩

/-! The interrupt. -/

theorem irq_of_completesCmd {s t : State} (h : CompletesCmd s t) : t.irq = s.irqEn := by
  rw [State.irq, h.cmpl, h.irqEn, Bool.true_and]

/-- Settles O13: a completion sets CMPL and keeps IRQ_EN; each deasserting access clears one of the two. -/
theorem interruptFollowsCompletion : Obligations.InterruptFollowsCompletion := by
  refine ⟨fun s t hb hbusy hstep => ?_, fun s v => ⟨rfl, ?_, Bool.and_false _⟩, fun s => rfl⟩
  · obtain ⟨u, hu, hcompletes⟩ := step_completesCmd hb hbusy
    obtain rfl := Host.Outcome.next.inj (hstep.symm.trans hu)
    exact irq_of_completesCmd hcompletes
  · have hcleared : (s.status.clear 0x00000200#32).cmpl = false := Bool.and_false _
    exact congrArg (· && s.irqEn) hcleared

end Sys2Proof.Proofs
end

section
/-! SUPPORT. The reset values: what every register reads after the reset input, the empty slots, and the invariant of the reset
state (70_reset_and_hazards.md R610, R611). -/

namespace Sys2Proof.Proofs

open Sys2Proof.Machine Sys2Proof.Claims

/-- The step that takes the reset input from the queue. -/
theorem step_rst {s : State} {rest : List HostEvent} (hq : s.hostq = .rst :: rest) :
    step s = .next { s with hostq := rest }.applyReset := by
  unfold step
  rw [hq]
  rfl

/-! The register reads. -/

theorem word_reset : Status.reset.word = 0#32 := by decide

theorem encStateWord_reset : Enc.reset.stateWord = 0#32 := by decide

theorem pendingWord_reset : Enc.reset.pendingWord = 0#32 := by decide

theorem decStateWord_reset : Dec.reset.stateWord = 0#32 := by decide

theorem lookup_of_unlisted {off : Nat} (h : ∀ p ∈ resetReads, p.1 ≠ off) : resetReads.lookup off = none :=
  List.lookup_eq_none_iff.mpr fun p hp => bne_iff_ne.mpr (h p hp).symm

/-- Each register by its own case; an offset that is no register's is not listed either. -/
theorem regRead_applyReset (s : State) (off : Nat) : s.applyReset.regRead off = (resetReads.lookup off).getD 0#32 := by
  unfold State.regRead
  split
  case h_3 => exact word_reset
  case h_19 => exact encStateWord_reset
  case h_23 => exact pendingWord_reset
  case h_24 => exact decStateWord_reset
  case h_56 =>
    have hunlisted : ∀ p ∈ resetReads, p.1 ≠ off := by grind [resetReads]
    rw [lookup_of_unlisted hunlisted]
    rfl
  all_goals rfl

theorem regRead_applyReset_listed (s : State) {p : Nat × Word} (h : p ∈ resetReads) : s.applyReset.regRead p.1 = p.2 := by
  rw [regRead_applyReset]
  fin_cases h <;> rfl

theorem regRead_applyReset_unlisted (s : State) {off : Nat} (h : ∀ p ∈ resetReads, p.1 ≠ off) :
    s.applyReset.regRead off = 0#32 := by
  rw [regRead_applyReset, lookup_of_unlisted h]
  rfl

/-! The slots. -/

theorem slots_applyReset (s : State) (k : Fin 4) : s.applyReset.slots.get k = Slot.empty := by
  fin_cases k <;> rfl

/-- Settles O14: the step is the reset itself, which puts every item of the block at its reset value. -/
theorem resetInputGivesResetValues : Obligations.ResetInputGivesResetValues := by
  intro s rest hq
  exact ⟨_, step_rst hq, rfl, fun _ => regRead_applyReset_listed _, fun _ => regRead_applyReset_unlisted _
    , slots_applyReset _, rfl, rfl, rfl, rfl, rfl, rfl⟩

/-! The invariant. -/

/-- The reset values have the invariant, whatever host memory holds. -/
theorem inv_applyReset {s : State} (hmem : s.mem.wf = true) : Inv s.applyReset :=
  inv_iff.mpr ⟨sound_applyReset hmem, nofun, rfl⟩

/-- Settles O20: the reset state is the reset of itself, and its host memory, which is empty, is in canonical form. -/
theorem resetHasTheInvariant : Obligations.ResetHasTheInvariant := inv_applyReset (s := State.reset) rfl

end Sys2Proof.Proofs
end
